-- ==== Sys2Proof/Word.lean ====
section
/-! DEFINITION. The word types of the block: bytes, byte strings and the two halves of a 16-bit wire word. -/

namespace Sys2Proof

/-- An 8-bit value, the unit of every buffer (spec R15). -/
abbrev Byte := BitVec 8

/-- A byte string: a finite sequence of bytes, index 0 first on the wire (spec R15, R62). -/
abbrev Bytes := List Byte

/-- A 16-bit wire word: a command word or a PEC word (spec R65). -/
abbrev Word := BitVec 16

end Sys2Proof
end

