-- ==== Sys2Proof/Syntax.lean ====
section
/-! DEFINITION. The instructions of the block: one constructor of `Instr` per row of spec/opcode_table.json.
One host request is one instruction (spec R20). -/

namespace Sys2Proof

/-- One of the two physical communication ports (spec R18, R21). -/
inductive Port where
  /-- Port A, which enters the chain at the last device (spec R160). -/
  | A
  /-- Port B, which enters the chain at device 0 (spec R160). -/
  | B
deriving DecidableEq, Repr, Inhabited

/-- The device class an operation addresses: the `CLS` operand (spec R33, R96). -/
inductive DevClass where
  /-- The cell monitors. -/
  | cell
  /-- The pack monitor. -/
  | pack
  /-- Both classes. -/
  | shared
deriving DecidableEq, Repr, Inhabited

/-- The host requests of the block (spec R93), with the operands that spec R94 marks for each. A `count` and an
`index` are u32, a `counter` is a u8 (spec R90): the request may carry values that spec R97 refuses. -/
inductive Instr where
  /-- STATUS: read the chain status (spec R271). -/
  | status
  /-- COMMAND: send a command to the chain (spec R267). -/
  | command (cls : DevClass) (cmd : Word)
  /-- WRITE: write one 6-byte payload to every device (spec R268). -/
  | write (cls : DevClass) (cmd : Word) (data : Bytes)
  /-- READ: read one 6-byte payload from every device (spec R269). -/
  | read (cls : DevClass) (cmd : Word)
  /-- WAKE: send the wake pulse train on one port (spec R206). -/
  | wake (port : Port)
  /-- READY: send the ready pulse train on one port (spec R207). -/
  | ready (port : Port)
  /-- INIT: re-initialise ChainInfo to its defaults (spec R272). -/
  | init
  /-- PROBE: run the topology probe and commit its result (spec R231). -/
  | probe
  /-- CRC15: the command CRC word of a byte string (spec R135). -/
  | crc15 (bytes : Bytes)
  /-- CRC10: the data CRC of a byte string and a counter (spec R140). -/
  | crc10 (bytes : Bytes) (counter : BitVec 8)
  /-- BUILDCMD: build a command frame (spec R165). -/
  | buildcmd (cmd : Word)
  /-- BUILDWR: build a write frame for a chain of `count` devices, all present (spec R190). -/
  | buildwr (port : Port) (cmd : Word) (count : BitVec 32) (data : Bytes)
  /-- PARSERD: parse a read frame of `count` devices with one expected counter (spec R191). -/
  | parserd (port : Port) (count : BitVec 32) (counter : BitVec 8) (bytes : Bytes)
  /-- OFFSET: the slot and byte offset of a device (spec R193). -/
  | offset (port : Port) (index : BitVec 32) (count : BitVec 32)
  /-- CTRRESET: explicit counter reset (spec R270). -/
  | ctrreset (cls : DevClass)
deriving DecidableEq, Repr

end Sys2Proof
end

