-- ==== Sys2Proof/Config.lean ====
section
/-! DEFINITION. What one instance of the block fixes (the parameters of spec R12), and the one free value of the
model: the transport's answer where no answer is queued. -/

namespace Sys2Proof

/-- The implementation parameters of the block (spec R12). They are fixed for an instance: no request writes them
(spec R30, R31, R46). A machine state carries the parameters of its instance, so a statement about every state is a
statement about every instance. -/
structure Params where
  /-- `DEVICE_COUNT`, written `n` in the spec: the devices of the daisy chain (spec R30). -/
  deviceCount : Nat
  /-- `MAX_DEVICES`, left OPEN by the spec, at most 2^32 - 1 (spec R12, decision D35). -/
  maxDevices : Nat
  /-- `PACK_MONITOR_PORT`: the port the pack monitor's end of the chain is wired to (spec R31). -/
  packMonitorPort : Port
  /-- `DUAL_PORT_TRANSACTIONS_BEFORE_RETRY` (spec R12, R262). The spec gives its value, 100, and no range (log
  entry 17). -/
  dualPortLimit : Nat
  /-- `WAKE_DELAY_US`, in microseconds (spec R12, R206). -/
  wakeDelayUs : Nat
  /-- `READY_DELAY_US`, in microseconds (spec R12, R207). -/
  readyDelayUs : Nat
  /-- `TRANSPORT_TIMEOUT`, in microseconds; no rule depends on it (spec R12, R208). -/
  transportTimeoutUs : Nat
  /-- `CRC15_POLY`: the coefficients of x^14..x^0; the x^15 term is implicit (spec R131). -/
  crc15Poly : BitVec 15
  /-- `CRC15_SEED`: the initial 15-bit register (spec R131). -/
  crc15Seed : BitVec 15
  /-- `CRC10_POLY` in full, the x^10 term included; the engine uses bits 9:0 (spec R138). -/
  crc10Poly : BitVec 11
  /-- `CRC10_SEED`: the initial 10-bit register (spec R138). -/
  crc10Seed : BitVec 10
  /-- `CMD_RDSID`: the serial-ID read the probe sends (spec R221). -/
  cmdRdsid : Word
  /-- `CMD_RSTCC`: the counter-reset broadcast (spec R253). -/
  cmdRstcc : Word
  /-- `FILL`: the filler byte of a read's transmit frame (spec R115, R167). -/
  fill : Byte
  /-- `CS_ASSERTED` is electrical low (spec R12, R201); no rule depends on it. -/
  csActiveLow : Bool
deriving DecidableEq, Repr

/-- The parameter values the spec gives (spec R12). `deviceCount`, `packMonitorPort` and `maxDevices` have no value in
the spec: DESIGN CHOICE, log entries 1 and 2. The CRC parameters, the two command codes and the chip-select level are
the spec's defaults: PRESUMED, log entry 10. The literals are unaudited: UNVERIFIED, log entry 15. -/
def Params.default : Params where
  deviceCount := 9
  maxDevices := 2 ^ 32 - 1
  packMonitorPort := .B
  dualPortLimit := 100
  wakeDelayUs := 500
  readyDelayUs := 10
  transportTimeoutUs := 10000
  crc15Poly := 0x4599#15
  crc15Seed := 0x0010#15
  crc10Poly := 0x48F#11
  crc10Seed := 0x010#10
  cmdRdsid := 0x002C#16
  cmdRstcc := 0x002E#16
  fill := 0xFF#8
  csActiveLow := true

/-- The bounds of the parameters. `1 <= n <= MAX_DEVICES <= 2^32 - 1` are those of spec R12. The range of the tally
limit is the model's choice, since R12 gives only the value 100: a limit that a success can reach, and below which the
tally fits its u32. DESIGN CHOICE, log entry 17. -/
def Params.wf (c : Params) : Bool :=
  decide (1 ≤ c.deviceCount) && decide (c.deviceCount ≤ c.maxDevices) && decide (c.maxDevices ≤ 2 ^ 32 - 1)
    && decide (1 ≤ c.dualPortLimit) && decide (c.dualPortLimit ≤ 2 ^ 32 - 1)

/-- What the transport oracle answers to one `Xfer` call (spec R8, R200): a byte string of ANY length, or
`TransportError`. A timeout is a `TransportError` (spec R203). -/
inductive Answer where
  /-- The bytes received while the transmit buffer was sent. -/
  | bytes (rx : Bytes)
  /-- The transport failed or timed out. -/
  | transportError
deriving DecidableEq, Repr, Inhabited

/-- FREE VALUE (log entry 3). What the transport answers to the transmit buffer `tx` at moment `when`, where the
state holds no queued answer. The devices are outside the block and every answer is legal (spec R19, 93 section 2), so
nothing is known of it. -/
opaque Config.freeAnswer : (when : Nat) → (tx : Bytes) → Answer

end Sys2Proof
end

