-- ==== Sys2Proof/WellFormed.lean ====
section
/-! DEFINITION. Which instructions are well formed for an instance: the operand checks 6 to 9 of spec R97 with the
length checks of spec R98. (Checks 1 to 5 are about the request's encoding: Decode.lean makes them.) An ill-formed
instruction is not a stop of the machine: it gets the response `IllegalRequest` (spec R99). -/

namespace Sys2Proof

/-- Spec R97 check 6: a counter operand is at most 63. -/
def counterFits (counter : BitVec 8) : Bool := decide (counter.toNat ≤ 63)

/-- Spec R97 check 7: a count operand is in 1..MAX_DEVICES. -/
def countFits (c : Params) (count : BitVec 32) : Bool :=
  decide (1 ≤ count.toNat) && decide (count.toNat ≤ c.maxDevices)

/-- An instruction passes checks 6 to 9 of spec R97 on the instance `c`. -/
def Instr.wf (c : Params) : Instr → Bool
  | .status => true
  | .command _ _ => true
  | .write _ _ data => decide (data.length = 6 * c.deviceCount)
  | .read _ _ => true
  | .wake _ => true
  | .ready _ => true
  | .init => true
  | .probe => true
  | .crc15 _ => true
  | .crc10 _ counter => counterFits counter
  | .buildcmd _ => true
  | .buildwr _ _ count data => countFits c count && decide (data.length = 6 * count.toNat)
  | .parserd _ count counter bytes =>
    counterFits counter && countFits c count && decide (bytes.length = 4 + 8 * count.toNat)
  | .offset _ index count => countFits c count && decide (index.toNat < count.toNat)
  | .ctrreset _ => true

end Sys2Proof
end

