-- ==== Sys2Proof/Decode.lean ====
section
/-! DEFINITION. The host request record, its decoder and its encoder (30_encoding.md R90 to R102, opcode_table.json). -/

namespace Sys2Proof

/-- A host request: a 32-bit descriptor and the operand fields of the record (spec R90). -/
structure Request where
  /-- The descriptor word (spec R91). -/
  desc : BitVec 32
  /-- Payload bytes of WRITE and BUILDWR. -/
  data : Bytes
  /-- Byte string of CRC15, CRC10 and PARSERD. -/
  bytes : Bytes
  /-- Device count of BUILDWR, PARSERD and OFFSET (u32). -/
  count : BitVec 32
  /-- Device index of OFFSET (u32). -/
  index : BitVec 32
  /-- Counter of CRC10 and PARSERD (u8). -/
  counter : BitVec 8
deriving DecidableEq, Repr

/-- The request whose descriptor is `desc` and whose record fields are all empty or 0. -/
def Request.ofDesc (desc : BitVec 32) : Request :=
  { desc := desc, data := [], bytes := [], count := 0, index := 0, counter := 0 }

/-- Why the decoder turns a request away: checks 1 to 5 of spec R97, one name each. -/
inductive Reject where
  /-- Check 1: `OP == 0xF`. -/
  | reservedOp
  /-- Check 2: `RSV != 0`. -/
  | reservedBits
  /-- Check 3: a descriptor field the op does not use is nonzero. -/
  | unusedDescriptorField
  /-- Check 4: a record field the op does not use is nonempty or nonzero. -/
  | unusedRecordField
  /-- Check 5: the op uses `CLS` and `CLS == 3`. -/
  | reservedClass
deriving DecidableEq, Repr

/-! ## The descriptor's fields (spec R91) -/

/-- `RSV = desc[31:23]`. -/
def rsvField (desc : BitVec 32) : BitVec 9 := desc.extractLsb' 23 9
/-- `PORT = desc[22]`. -/
def portField (desc : BitVec 32) : BitVec 1 := desc.extractLsb' 22 1
/-- `CLS = desc[21:20]`. -/
def clsField (desc : BitVec 32) : BitVec 2 := desc.extractLsb' 20 2
/-- `OP = desc[19:16]`. -/
def opField (desc : BitVec 32) : BitVec 4 := desc.extractLsb' 16 4
/-- `CMD = desc[15:0]`. -/
def cmdField (desc : BitVec 32) : Word := desc.extractLsb' 0 16

/-- A descriptor made of its fields, RSV 0 (spec R91). -/
def mkDesc (port : BitVec 1) (cls : BitVec 2) (op : BitVec 4) (cmd : Word) : BitVec 32 :=
  0#9 ++ port ++ cls ++ op ++ cmd

/-- The `PORT` encoding: 0 = A, 1 = B (spec R95). -/
def portOfBits (b : BitVec 1) : Port := if b = 0#1 then .A else .B

/-- The `PORT` encoding, written (spec R95). -/
def portBits : Port → BitVec 1
  | .A => 0#1
  | .B => 1#1

/-- The `CLS` encoding: 0 = CELL, 1 = PACK, 2 = SHARED, 3 reserved (spec R96). -/
def classOfBits (b : BitVec 2) : Option DevClass :=
  match b.toNat with
  | 0 => some .cell
  | 1 => some .pack
  | 2 => some .shared
  | _ => none

/-- The `CLS` encoding, written (spec R96). -/
def classBits : DevClass → BitVec 2
  | .cell => 0#2
  | .pack => 1#2
  | .shared => 2#2

/-! ## The operation map (spec R93) and the fields each op uses (spec R94) -/

/-- The operations of the map of spec R93. -/
inductive Op where
  | status | command | write | read | wake | ready | init | probe
  | crc15 | crc10 | buildcmd | buildwr | parserd | offset | ctrreset
deriving DecidableEq, Repr

/-- The operation an `OP` code selects; 0xF is reserved (spec R93, R101). -/
def opOfCode (op : BitVec 4) : Option Op :=
  match op.toNat with
  | 0x0 => some .status
  | 0x1 => some .command
  | 0x2 => some .write
  | 0x3 => some .read
  | 0x4 => some .wake
  | 0x5 => some .ready
  | 0x6 => some .init
  | 0x7 => some .probe
  | 0x8 => some .crc15
  | 0x9 => some .crc10
  | 0xA => some .buildcmd
  | 0xB => some .buildwr
  | 0xC => some .parserd
  | 0xD => some .offset
  | 0xE => some .ctrreset
  | _ => none

/-- The `OP` code of an operation (spec R93). -/
def opCode : Op → BitVec 4
  | .status => 0x0#4
  | .command => 0x1#4
  | .write => 0x2#4
  | .read => 0x3#4
  | .wake => 0x4#4
  | .ready => 0x5#4
  | .init => 0x6#4
  | .probe => 0x7#4
  | .crc15 => 0x8#4
  | .crc10 => 0x9#4
  | .buildcmd => 0xA#4
  | .buildwr => 0xB#4
  | .parserd => 0xC#4
  | .offset => 0xD#4
  | .ctrreset => 0xE#4

/-- Which fields an op reads: one row of the table of spec R94. -/
structure Uses where
  cmd : Bool := false
  cls : Bool := false
  port : Bool := false
  data : Bool := false
  bytes : Bool := false
  count : Bool := false
  index : Bool := false
  counter : Bool := false
deriving DecidableEq, Repr

/-- The table of spec R94. -/
def opUses : Op → Uses
  | .status => {}
  | .command => { cmd := true, cls := true }
  | .write => { cmd := true, cls := true, data := true }
  | .read => { cmd := true, cls := true }
  | .wake => { port := true }
  | .ready => { port := true }
  | .init => {}
  | .probe => {}
  | .crc15 => { bytes := true }
  | .crc10 => { bytes := true, counter := true }
  | .buildcmd => { cmd := true }
  | .buildwr => { cmd := true, port := true, data := true, count := true }
  | .parserd => { port := true, bytes := true, count := true, counter := true }
  | .offset => { port := true, count := true, index := true }
  | .ctrreset => { cls := true }

/-- Check 3 of spec R97: every descriptor field the op does not use is 0. -/
def unusedDescZero (u : Uses) (desc : BitVec 32) : Bool :=
  (u.cmd || cmdField desc == 0) && (u.cls || clsField desc == 0) && (u.port || portField desc == 0)

/-- Check 4 of spec R97: every record field the op does not use is empty or 0. -/
def unusedRecordEmpty (u : Uses) (r : Request) : Bool :=
  (u.data || r.data.isEmpty) && (u.bytes || r.bytes.isEmpty) && (u.count || r.count == 0)
    && (u.index || r.index == 0) && (u.counter || r.counter == 0)

/-- The instruction of an op with the operands the request carries, for an op that reads no class operand or with
`cls` as its class (spec R94). -/
def instrOf (op : Op) (cls : DevClass) (r : Request) : Instr :=
  match op with
  | .status => .status
  | .command => .command cls (cmdField r.desc)
  | .write => .write cls (cmdField r.desc) r.data
  | .read => .read cls (cmdField r.desc)
  | .wake => .wake (portOfBits (portField r.desc))
  | .ready => .ready (portOfBits (portField r.desc))
  | .init => .init
  | .probe => .probe
  | .crc15 => .crc15 r.bytes
  | .crc10 => .crc10 r.bytes r.counter
  | .buildcmd => .buildcmd (cmdField r.desc)
  | .buildwr => .buildwr (portOfBits (portField r.desc)) (cmdField r.desc) r.count r.data
  | .parserd => .parserd (portOfBits (portField r.desc)) r.count r.counter r.bytes
  | .offset => .offset (portOfBits (portField r.desc)) r.index r.count
  | .ctrreset => .ctrreset cls

/-- The decoder: `OP` first, then the checks 1 to 5 of spec R97 in their order, then the fields spec R94 marks for the
op (spec R102). Total: every request is an instruction or is turned away by name. -/
def decode (r : Request) : Except Reject Instr :=
  match opOfCode (opField r.desc) with
  | none => .error .reservedOp
  | some op =>
    if rsvField r.desc ≠ 0 then .error .reservedBits
    else if !unusedDescZero (opUses op) r.desc then .error .unusedDescriptorField
    else if !unusedRecordEmpty (opUses op) r then .error .unusedRecordField
    else
      match classOfBits (clsField r.desc) with
      | some cls => .ok (instrOf op cls r)
      | none => .error .reservedClass

/-! ## The encoder, from the same tables -/

/-- The operation of an instruction. -/
def Instr.op : Instr → Op
  | .status => .status
  | .command _ _ => .command
  | .write _ _ _ => .write
  | .read _ _ => .read
  | .wake _ => .wake
  | .ready _ => .ready
  | .init => .init
  | .probe => .probe
  | .crc15 _ => .crc15
  | .crc10 _ _ => .crc10
  | .buildcmd _ => .buildcmd
  | .buildwr _ _ _ _ => .buildwr
  | .parserd _ _ _ _ => .parserd
  | .offset _ _ _ => .offset
  | .ctrreset _ => .ctrreset

/-- The request of an instruction: the descriptor of spec R91, omitted fields 0 (spec R120). -/
def encode (i : Instr) : Request :=
  let code := opCode i.op
  match i with
  | .status | .init | .probe => Request.ofDesc (mkDesc 0 0 code 0)
  | .command cls cmd | .read cls cmd => Request.ofDesc (mkDesc 0 (classBits cls) code cmd)
  | .write cls cmd data => { Request.ofDesc (mkDesc 0 (classBits cls) code cmd) with data := data }
  | .wake port | .ready port => Request.ofDesc (mkDesc (portBits port) 0 code 0)
  | .crc15 bytes => { Request.ofDesc (mkDesc 0 0 code 0) with bytes := bytes }
  | .crc10 bytes counter => { Request.ofDesc (mkDesc 0 0 code 0) with bytes := bytes, counter := counter }
  | .buildcmd cmd => Request.ofDesc (mkDesc 0 0 code cmd)
  | .buildwr port cmd count data =>
    { Request.ofDesc (mkDesc (portBits port) 0 code cmd) with count := count, data := data }
  | .parserd port count counter bytes =>
    { Request.ofDesc (mkDesc (portBits port) 0 code 0) with count := count, counter := counter, bytes := bytes }
  | .offset port index count =>
    { Request.ofDesc (mkDesc (portBits port) 0 code 0) with index := index, count := count }
  | .ctrreset cls => Request.ofDesc (mkDesc 0 (classBits cls) code 0)

/-! ## The opcode table and the host's entry to the decoder -/

/-- One row of spec/opcode_table.json: the descriptors of the op are those with `desc AND mask = pattern`. -/
structure TableRow where
  mnemonic : String
  pattern : BitVec 32
  mask : BitVec 32
deriving DecidableEq, Repr

/-- The row of spec/opcode_table.json of an operation (its "match" is `pattern` here). -/
def tableRow : Op → TableRow
  | .status => ⟨"STATUS", 0x00000000#32, 0xFFFFFFFF#32⟩
  | .command => ⟨"COMMAND", 0x00010000#32, 0xFFCF0000#32⟩
  | .write => ⟨"WRITE", 0x00020000#32, 0xFFCF0000#32⟩
  | .read => ⟨"READ", 0x00030000#32, 0xFFCF0000#32⟩
  | .wake => ⟨"WAKE", 0x00040000#32, 0xFFBFFFFF#32⟩
  | .ready => ⟨"READY", 0x00050000#32, 0xFFBFFFFF#32⟩
  | .init => ⟨"INIT", 0x00060000#32, 0xFFFFFFFF#32⟩
  | .probe => ⟨"PROBE", 0x00070000#32, 0xFFFFFFFF#32⟩
  | .crc15 => ⟨"CRC15", 0x00080000#32, 0xFFFFFFFF#32⟩
  | .crc10 => ⟨"CRC10", 0x00090000#32, 0xFFFFFFFF#32⟩
  | .buildcmd => ⟨"BUILDCMD", 0x000A0000#32, 0xFFFF0000#32⟩
  | .buildwr => ⟨"BUILDWR", 0x000B0000#32, 0xFFBF0000#32⟩
  | .parserd => ⟨"PARSERD", 0x000C0000#32, 0xFFBFFFFF#32⟩
  | .offset => ⟨"OFFSET", 0x000D0000#32, 0xFFBFFFFF#32⟩
  | .ctrreset => ⟨"CTRRESET", 0x000E0000#32, 0xFFCFFFFF#32⟩

/-- The request of a table word: its low `nbits` bits are the descriptor, every other field is 0 or empty. -/
def requestOfTableWord (nbits w : Nat) : Request :=
  Request.ofDesc (BitVec.ofNat 32 (w % 2 ^ nbits))

/-- The instruction the decoder reads from the descriptor word `w` of `nbits` bits, the record's operand fields 0 or
empty. -/
def decodeTableWord (nbits w : Nat) : Option Instr :=
  match decode (requestOfTableWord nbits w) with
  | .ok i => some i
  | .error _ => none

end Sys2Proof
end

