-- ==== Sys2Proof/Machine/State.lean ====
section
/-! DEFINITION. The state of the block as plain data: the ChainInfo registers (10_state.md R34), the control state of
the transactor (R42), the configuration of the instance (R30, R31), and the ends of its two interfaces: the host's
requests and the collaborators' calls and answers. The block has no addressable memory (R60), no general registers
(R49), no program counter (R42) and no flags (R47). -/

namespace Sys2Proof.Machine

/-- The chain-status values (spec R35, R105). -/
inductive ChainStatus where
  | complete
  | singleBreak
  | multipleBreak
deriving DecidableEq, Repr, Inhabited

/-- The transaction statuses of spec R103 that an operation can end in. The refusal code `IllegalRequest` is not among
them: it never meets another status (spec R306, R307). -/
inductive TxStatus where
  | success
  | chainBreakError
  | spiError
  | porError
  | commandCounterError
deriving DecidableEq, Repr, Inhabited

/-- The classes that have a stored command counter; SHARED has none (spec R39). -/
inductive CtrClass where
  | cell
  | pack
deriving DecidableEq, Repr, Inhabited

/-- The command counter file: two 6-bit registers (spec R39). -/
structure Counters where
  /-- `ctr[CELL]`. -/
  cell : BitVec 6
  /-- `ctr[PACK]`. -/
  pack : BitVec 6
deriving DecidableEq, Repr

/-- The ChainInfo registers (spec R34). `avail` and `tally` are u32 counts on which the spec's arithmetic is exact
(spec R16), so they are natural numbers: DEDUCED, log entry 12. -/
structure ChainInfo where
  /-- `status` (spec R35). -/
  status : ChainStatus
  /-- `avail[A]` (spec R36). -/
  availA : Nat
  /-- `avail[B]` (spec R36). -/
  availB : Nat
  /-- `currentPort` (spec R38). -/
  currentPort : Port
  /-- `ctr[CELL]` and `ctr[PACK]` (spec R39, R40). -/
  ctr : Counters
  /-- `tally`, the dual-port transaction tally (spec R41). -/
  tally : Nat
deriving DecidableEq, Repr

/-- The transactor's outer-loop iteration, 1 or 2 (spec R42, R257). -/
inductive Iter where
  | first
  | second
deriving DecidableEq, Repr, Inhabited

/-- The step being performed (spec R42). -/
inductive Phase where
  | idle
  | attemptCurrent
  | attemptA
  | attemptB
  | evaluate
  | reprobe
  | tallyProbe
  | counterReset
  | respond
deriving DecidableEq, Repr, Inhabited

/-- The probe's working state (spec R224). Between requests it carries no information (spec R43); the model leaves in it
what the last scan wrote: DESIGN CHOICE, log entry 18. -/
structure ProbeState where
  /-- The port being scanned. -/
  port : Port
  /-- The current count `k`. -/
  count : Nat
  /-- The result `av[A]` found so far. -/
  avA : Nat
  /-- The result `av[B]` found so far. -/
  avB : Nat
  /-- The accumulated counter fault `pf`. -/
  pf : TxStatus
deriving DecidableEq, Repr

/-- The control state of the transactor FSM, which stands in for a program counter (spec R42). -/
structure Control where
  /-- A host request is being served. -/
  busy : Bool
  /-- The latched request. -/
  req : Request
  /-- The outer-loop iteration. -/
  iter : Iter
  /-- The step being performed. -/
  phase : Phase
  /-- The probe's working state. -/
  probe : ProbeState
  /-- The counters latched when the request was accepted: the expected counters of its reads. -/
  expSnap : Counters
deriving DecidableEq, Repr

/-- A chip-select level (spec R201). -/
inductive CsLevel where
  | asserted
  | deasserted
deriving DecidableEq, Repr, Inhabited

/-- The two chip-select lines (spec R202, R317). -/
structure CsLines where
  /-- The line of port A. -/
  a : CsLevel
  /-- The line of port B. -/
  b : CsLevel
deriving DecidableEq, Repr

/-- A response record (spec R92). -/
structure Response where
  /-- The 3-bit status code (spec R103). -/
  status : BitVec 3
  /-- The 2-bit chain-status code (spec R105). -/
  chainStatus : BitVec 2
  /-- `avail[A]`, a u32. -/
  availA : BitVec 32
  /-- `avail[B]`, a u32. -/
  availB : BitVec 32
  /-- READ payloads, a built frame, or parsed payloads. -/
  data : Bytes
  /-- A CRC value, or a slot and byte offset, a u32. -/
  value : BitVec 32
deriving DecidableEq, Repr

/-- An observable event of the block: a collaborator call (spec R20, R200) or a response. An `xfer` event carries the
oracle's answer to the call. -/
inductive Event where
  /-- `SetCS(port, level)`. -/
  | setCs (port : Port) (level : CsLevel)
  /-- `Xfer(tx)` and what the transport answered. -/
  | xfer (tx : Bytes) (answer : Answer)
  /-- `DelayUs(t)`. -/
  | delayUs (t : Nat)
  /-- The response that ends a request. -/
  | response (r : Response)
deriving DecidableEq, Repr

/-- The machine state. The last three fields are the model's own: the two inputs of the block (requests the host has
issued, answers the transport will give) and the record of its observable events. -/
structure State where
  /-- The configuration of the instance (spec R12, R30, R31). -/
  cfg : Params
  /-- The ChainInfo registers (spec R34). -/
  chain : ChainInfo
  /-- The transactor's control state (spec R42). -/
  ctl : Control
  /-- The chip-select lines as the block last drove them (spec R202). -/
  cs : CsLines
  /-- Host requests offered and not yet accepted, oldest first (spec R75, R345). -/
  host : List Request
  /-- Transport answers to come, oldest first (spec R19; log entry 3). -/
  answers : List Answer
  /-- The observable events since reset, oldest first (spec R20; log entry 4). -/
  trace : List Event
deriving DecidableEq, Repr

/-- Why a step can stop. The block itself has no trap and no stop (spec R312): every accepted request ends in a
response. -/
inductive Fault where
  /-- Raised by `step` in a state whose `busy` flag is set: a request offered then waits for the response of the
  current one (spec R75), and since the model serves a request in one step, nothing is left to run. No run from reset
  reaches such a state. Safe: the model stops where the hardware would go on serving a request already accepted. -/
  | requestInFlight
deriving DecidableEq, Repr

/-- Why an instruction has no meaning in the model. -/
inductive Refusal where
  /-- The instruction of this mnemonic is not modelled. Raised by `exec` for an arm without a meaning; there is none.
  Safe: the model stops. -/
  | notModelled (mnemonic : String)
deriving DecidableEq, Repr

/-! ## Reset -/

/-- ChainInfo after reset and after INIT (spec R340). -/
def ChainInfo.initial (c : Params) : ChainInfo :=
  { status := .complete
    availA := c.deviceCount
    availB := c.deviceCount
    currentPort := .A
    ctr := { cell := 0, pack := 0 }
    tally := 0 }

/-- The control state after block reset (spec R341). The spec gives `req`, `iter`, `probe` and `expSnap` no value
there: DESIGN CHOICE, log entry 5. -/
def Control.initial : Control :=
  { busy := false
    req := Request.ofDesc 0
    iter := .first
    phase := .idle
    probe := { port := .A, count := 0, avA := 0, avB := 0, pf := .success }
    expSnap := { cell := 0, pack := 0 } }

/-- Both chip-selects idle, as spec R342 assumes before the block first drives them: DEDUCED, log entry 9. -/
def CsLines.idle : CsLines := { a := .deasserted, b := .deasserted }

/-- The block of configuration `c` right after its reset (spec R330, R340 to R342): no request, no event. -/
def State.resetOf (c : Params) : State :=
  { cfg := c
    chain := ChainInfo.initial c
    ctl := Control.initial
    cs := CsLines.idle
    host := []
    answers := []
    trace := [] }

/-- The machine right after reset, on the instance of `Params.default`. -/
def State.reset : State := State.resetOf Params.default

end Sys2Proof.Machine
end

