-- ==== Sys2Proof/Machine/Flags.lean ====
section
/-! DEFINITION. The status computations. The block has no condition flags (spec R47): the statuses of a response are
its only outcome indicators, and this file gives their codes and their priority (30_encoding.md R103 to R105,
60_exceptions.md R307). -/

namespace Sys2Proof.Machine

/-- The response code of a transaction status (spec R103). -/
def TxStatus.code : TxStatus → BitVec 3
  | .success => 0#3
  | .chainBreakError => 1#3
  | .spiError => 2#3
  | .porError => 3#3
  | .commandCounterError => 4#3

/-- The code of `IllegalRequest` (spec R103, R306). -/
def illegalCode : BitVec 3 := 7#3

/-- The code of a chain status (spec R105). -/
def ChainStatus.code : ChainStatus → BitVec 2
  | .complete => 0#2
  | .singleBreak => 1#2
  | .multipleBreak => 2#2

/-- The priority of a status: the higher rank wins (spec R307). -/
def TxStatus.rank : TxStatus → Nat
  | .success => 1
  | .chainBreakError => 2
  | .commandCounterError => 3
  | .porError => 4
  | .spiError => 5

/-- The worse of two statuses (spec R307). -/
def worse (x y : TxStatus) : TxStatus := if x.rank ≥ y.rank then x else y

/-- The status is one of the two counter faults `PorError` and `CommandCounterError` (spec R258, R261, R264). -/
def TxStatus.isCounterFault (x : TxStatus) : Bool := x == .porError || x == .commandCounterError

end Sys2Proof.Machine
end

