-- ==== Sys2Proof/Machine/Operands.lean ====
section
/-! DEFINITION. What the operands of a request stand for: ports, device classes and their counters, device positions
and slots, payloads, and the operand checks of 30_encoding.md R97, R98. -/

namespace Sys2Proof.Machine

/-! ## Ports -/

/-- `other(A) = B` and `other(B) = A` (spec R18). -/
def otherPort : Port → Port
  | .A => .B
  | .B => .A

/-- `avail[P]` (spec R36). -/
def ChainInfo.avail (info : ChainInfo) : Port → Nat
  | .A => info.availA
  | .B => info.availB

/-- The level of a port's chip-select line. -/
def CsLines.get (lines : CsLines) : Port → CsLevel
  | .A => lines.a
  | .B => lines.b

/-- The chip-select lines with one port's line at a level. -/
def CsLines.set (lines : CsLines) (P : Port) (level : CsLevel) : CsLines :=
  match P with
  | .A => { lines with a := level }
  | .B => { lines with b := level }

/-! ## Device positions and slots (41_framing.md section 1) -/

/-- The devices a `k`-slot frame on a port carries: the `k` devices nearest the port (spec R161). -/
def reachable (P : Port) (k n : Nat) : List Nat :=
  match P with
  | .B => List.range k
  | .A => (List.range k).map fun j => n - k + j

/-- The device of a slot (spec R164). -/
def devOf (P : Port) (s n : Nat) : Nat :=
  match P with
  | .B => s
  | .A => n - 1 - s

/-- The slot of a device (spec R164). -/
def slotOf (P : Port) (i n : Nat) : Nat :=
  match P with
  | .B => i
  | .A => n - 1 - i

/-- The offset of a slot in a frame: the 4-byte command frame stands before slot 0 (spec R162). -/
def slotOffset (s : Nat) : Nat := 4 + 8 * s

/-- `deviceIndexToBufferOffset` (spec R164). -/
def byteOffset (P : Port) (i n : Nat) : Nat := slotOffset (slotOf P i n)

/-! ## Device classes and command counters -/

/-- The index of the pack monitor: the device nearest `packMonitorPort` (spec R32). -/
def packIndex (c : Params) : Nat :=
  match c.packMonitorPort with
  | .B => 0
  | .A => c.deviceCount - 1

/-- The class of a device (spec R32). -/
def classOf (c : Params) (i : Nat) : CtrClass := if i = packIndex c then .pack else .cell

/-- The counter classes an operation of a class uses (spec R33). -/
def covered : DevClass → List CtrClass
  | .cell => [.cell]
  | .pack => [.pack]
  | .shared => [.cell, .pack]

/-- `ctr[c]`, read. -/
def Counters.get (ctr : Counters) : CtrClass → BitVec 6
  | .cell => ctr.cell
  | .pack => ctr.pack

/-- `ctr[c] <- v`. -/
def Counters.set (ctr : Counters) (c : CtrClass) (v : BitVec 6) : Counters :=
  match c with
  | .cell => { ctr with cell := v }
  | .pack => { ctr with pack := v }

/-- Counter increment: 63 wraps to 1, and the result is never 0 (spec R251). -/
def inc (c : BitVec 6) : BitVec 6 := if c = 63#6 then 1#6 else c + 1#6

/-- `for c in covered(cls): ctr[c] <- inc(ctr[c])` (spec R252). -/
def incCounters (cls : DevClass) (ctr : Counters) : Counters :=
  (covered cls).foldl (fun acc c => acc.set c (inc (acc.get c))) ctr

/-- `for c in covered(cls): ctr[c] <- 0` (spec R253). -/
def zeroCounters (cls : DevClass) (ctr : Counters) : Counters :=
  (covered cls).foldl (fun acc c => acc.set c 0) ctr

/-- The expected counter of device `i` for a read of class `cls` whose expected values are `snap`, or `none` if its
counter is not checked (spec R180). -/
def expected (c : Params) (cls : DevClass) (snap : Counters) (i : Nat) : Option (BitVec 6) :=
  if classOf c i ∈ covered cls then some (snap.get (classOf c i)) else none

/-! ## Payloads -/

/-- The 6-byte payload of device `i` in host data, device 0 first (spec R61). -/
def payloadAt (data : Bytes) (i : Nat) : Bytes := (data.drop (6 * i)).take 6

/-- Payloads by logical device index: the pairs `out[i]` of a parsed frame (spec R175). -/
abbrev FrameData := List (Nat × Bytes)

/-- The payload of device `i`, empty where the frame carried none. -/
def FrameData.at (out : FrameData) (i : Nat) : Bytes := (out.lookup i).getD []

/-- `out[0] ++ out[1] ++ ... ++ out[n-1]`: host data in logical device order (spec R61, R191, R269). -/
def FrameData.flat (out : FrameData) (n : Nat) : Bytes := (List.range n).flatMap out.at

/-- The data of a dual-port read: device `i` from port B if `i < avail[B]`, otherwise from port A (spec R265). -/
def mergeData (availB n : Nat) (dA dB : FrameData) : FrameData :=
  (List.range n).map fun i => (i, if i < availB then dB.at i else dA.at i)

/-! ## Operand checks 6 to 9 (30_encoding.md R97, R98) -/

/-- Check 6: the counter is at most 63. -/
def counterOk (counter : BitVec 8) : Bool := decide (counter.toNat ≤ 63)

/-- Check 7: the count is neither 0 nor above `MAX_DEVICES`. -/
def countOk (c : Params) (count : BitVec 32) : Bool :=
  decide (count.toNat ≠ 0) && decide (count.toNat ≤ c.maxDevices)

/-- Check 8: the index is below the count. -/
def indexOk (index count : BitVec 32) : Bool := decide (index.toNat < count.toNat)

/-- Check 9: a byte string has the length the op needs. -/
def lengthOk (bs : Bytes) (needed : Nat) : Bool := decide (bs.length = needed)

end Sys2Proof.Machine
end

