-- ==== Sys2Proof/Machine/Ops.lean ====
section
/-! DEFINITION. The named operations over the state: acceptance of a request, the three collaborator calls, the
register writes, and the response. The block takes no exception and returns from none (spec R312): what ends a request
that failed is its response, here `State.respond` and, for a refused request, `State.refuse`. -/

namespace Sys2Proof.Machine

/-! ## Acceptance (44_transactor.md R255) -/

/-- The request the block serves next and the requests left: the oldest one the host has offered (spec R75). -/
def State.nextRequest (s : State) : Option (Request × List Request) :=
  match s.host with
  | [] => none
  | r :: rest => some (r, rest)

/-- The block latches a request and is busy until its response (spec R255). -/
def State.accept (s : State) (r : Request) (rest : List Request) : State :=
  { s with host := rest, ctl := { s.ctl with busy := true, req := r } }

/-- A COMMAND, WRITE or READ latches `expSnap <- ctr` and sets `iter <- 1` at its acceptance (spec R255). -/
def State.latchCounters (s : State) : State :=
  { s with ctl := { s.ctl with expSnap := s.chain.ctr, iter := .first } }

/-! ## Control state -/

/-- `phase <- ph` (spec R42). -/
def State.enter (s : State) (ph : Phase) : State := { s with ctl := { s.ctl with phase := ph } }

/-- `iter <- it` (spec R257). -/
def State.setIter (s : State) (it : Iter) : State := { s with ctl := { s.ctl with iter := it } }

/-- The probe's working state is `p` (spec R224). -/
def State.setProbe (s : State) (p : ProbeState) : State := { s with ctl := { s.ctl with probe := p } }

/-! ## Collaborator calls (42_port.md R200) -/

/-- One more observable event. -/
def State.emit (s : State) (e : Event) : State := { s with trace := s.trace ++ [e] }

/-- `SetCS(P, level)`. -/
def State.setCs (s : State) (P : Port) (level : CsLevel) : State :=
  { s with cs := s.cs.set P level, trace := s.trace ++ [.setCs P level] }

/-- What the transport will answer to `tx`: the oldest queued answer, or a free value where none is queued (log
entry 3). -/
def State.oracleAnswer (s : State) (tx : Bytes) : Answer :=
  match s.answers with
  | a :: _ => a
  | [] => Config.freeAnswer s.trace.length tx

/-- `Xfer(tx)`: the answer is used up and the call is an event (spec R66, R200). -/
def State.xfer (s : State) (tx : Bytes) : State :=
  { s with answers := s.answers.tail, trace := s.trace ++ [.xfer tx (s.oracleAnswer tx)] }

/-- `DelayUs(t)`. -/
def State.delayUs (s : State) (t : Nat) : State := s.emit (.delayUs t)

/-! ## ChainInfo writes (10_state.md R34) -/

/-- The ChainInfo registers are `info`. -/
def State.setChain (s : State) (info : ChainInfo) : State := { s with chain := info }

/-- `ctr <- c`. -/
def State.setCtr (s : State) (c : Counters) : State := { s with chain := { s.chain with ctr := c } }

/-- `tally <- t`. -/
def State.setTally (s : State) (t : Nat) : State := { s with chain := { s.chain with tally := t } }

/-- `currentPort <- P`. -/
def State.setCurrentPort (s : State) (P : Port) : State := { s with chain := { s.chain with currentPort := P } }

/-- `incCounters(cls)` (spec R252). -/
def State.incCtr (s : State) (cls : DevClass) : State := s.setCtr (incCounters cls s.chain.ctr)

/-! ## The response (30_encoding.md R92, 44_transactor.md R255) -/

/-- A response with a status and every field the op does not define 0 or empty (spec R92). -/
def Response.ofCode (code : BitVec 3) : Response :=
  { status := code, chainStatus := 0, availA := 0, availB := 0, data := [], value := 0 }

/-- A response with a transaction status and data. Data is returned only with `Success` (spec R309). -/
def Response.ofStatus (st : TxStatus) (data : Bytes) : Response :=
  { Response.ofCode st.code with data := if st = .success then data else [] }

/-- A successful response with a value. -/
def Response.ofValue (value : BitVec 32) : Response := { Response.ofCode TxStatus.success.code with value := value }

/-- The request ends: the response is an event, `busy <- false` and `phase <- IDLE` (spec R255). The other control-state
fields carry no information between requests (spec R43); they keep their last values, the probe's working state
those of the last scan. DESIGN CHOICE, log entry 18. -/
def State.respond (s : State) (r : Response) : State :=
  { s with trace := s.trace ++ [.response r], ctl := { s.ctl with busy := false, phase := .idle } }

/-- The refusal of an illegal request: `IllegalRequest`, every other response field 0 or empty, no collaborator call
and no other state written (spec R99). -/
def State.refuse (s : State) : State := s.respond (Response.ofCode illegalCode)

end Sys2Proof.Machine
end

