-- ==== Sys2Proof/Machine/Crc.lean ====
section
/-! DEFINITION. The CRC engine (40_crc.md): the command CRC, the data CRC, their table-driven forms, and the
instructions CRC15 and CRC10. The engine has no state (spec R130). -/

namespace Sys2Proof.Machine

/-! ## The shared shift register -/

/-- One input bit into a `w`-bit, non-reflected, most-significant-bit-first CRC register (the inner loop of spec R131
and R138). -/
def crcShift {w : Nat} (poly r : BitVec w) (b : Bool) : BitVec w :=
  if (r.msb ^^ b) = true then (r <<< 1) ^^^ poly else r <<< 1

/-- A string of bits into the register, in order. -/
def crcBits {w : Nat} (poly r : BitVec w) (bits : List Bool) : BitVec w := bits.foldl (crcShift poly) r

/-- The bits of a value, most significant first. -/
def msbFirst {w : Nat} (v : BitVec w) : List Bool := (List.range w).map v.getMsbD

/-- A byte string into the register: each byte in order, its bit 7 first. -/
def crcBytes {w : Nat} (poly r : BitVec w) (bs : Bytes) : BitVec w :=
  bs.foldl (fun acc b => crcBits poly acc (msbFirst b)) r

/-! ## Command CRC (spec R131, R132) -/

/-- `crc15(bs)`, the 15-bit command CRC (spec R131). -/
def crc15Of (c : Params) (bs : Bytes) : BitVec 15 := crcBytes c.crc15Poly c.crc15Seed bs

/-- `commandCrc(bs) = {crc15(bs), 0}` (spec R132). -/
def commandCrc (c : Params) (bs : Bytes) : Word := crc15Of c bs ++ 0#1

/-! ## Data CRC (spec R138) -/

/-- The 10 low coefficients of `CRC10_POLY` (spec R138). -/
def crc10Low (c : Params) : BitVec 10 := c.crc10Poly.setWidth 10

/-- `dataCrc(bs, ctr)`: the bytes first, then the 6 counter bits (spec R138, R139). -/
def dataCrc (c : Params) (bs : Bytes) (ctr : BitVec 6) : BitVec 10 :=
  crcBits (crc10Low c) (crcBytes (crc10Low c) c.crc10Seed bs) (msbFirst ctr)

/-! ## Table-driven forms (spec R133, R137, R141, R142) -/

/-- `P16 = (CRC15_POLY << 1)[15:0]` (spec R133). -/
def poly16 (c : Params) : Word := c.crc15Poly ++ 0#1

/-- Eight zero bits into a register. -/
def foldZeroByte {w : Nat} (poly r : BitVec w) : BitVec w := crcBits poly r (List.replicate 8 false)

/-- `T15[i]` (spec R137). -/
def t15 (c : Params) (i : Byte) : Word := foldZeroByte (poly16 c) (i.setWidth 16 <<< 8)

/-- `T10[i]` (spec R142). -/
def t10 (c : Params) (i : Byte) : BitVec 10 := foldZeroByte (crc10Low c) (i.setWidth 10 <<< 2)

/-- The table form of the command CRC (spec R133). -/
def commandCrcByTable (c : Params) (bs : Bytes) : Word :=
  bs.foldl (fun r b => (r <<< 8) ^^^ t15 c (r.extractLsb' 8 8 ^^^ b)) (c.crc15Seed ++ 0#1)

/-- The table form of the data bytes' part of the data CRC (spec R141). -/
def crc10BytesByTable (c : Params) (bs : Bytes) : BitVec 10 :=
  bs.foldl (fun r b => (r <<< 8) ^^^ t10 c (r.extractLsb' 2 8 ^^^ b)) c.crc10Seed

/-! ## The instructions -/

/-- CRC15: the command CRC word of a byte string of any length (spec R135). -/
def execCrc15 (bytes : Bytes) (s : State) : Host.Outcome State Fault Refusal :=
  .next (s.respond (Response.ofValue ((commandCrc s.cfg bytes).setWidth 32)))

/-- CRC10: the data CRC of a byte string of any length and a counter of 0..63 (spec R140). -/
def execCrc10 (bytes : Bytes) (counter : BitVec 8) (s : State) : Host.Outcome State Fault Refusal :=
  if counterOk counter then
    .next (s.respond (Response.ofValue ((dataCrc s.cfg bytes (counter.setWidth 6)).setWidth 32)))
  else .next s.refuse

end Sys2Proof.Machine
end

