-- ==== Sys2Proof/Machine/Framing.lean ====
section
/-! DEFINITION. The isoSPI frame encoder and decoder, FramingCodec (41_framing.md, wire formats of 30_encoding.md R110
to R117), and the instructions BUILDCMD, BUILDWR, PARSERD and OFFSET. -/

namespace Sys2Proof.Machine

/-! ## Wire words (20_memory.md R63) -/

/-- `w[15:8]`, the byte of a wire word that is sent first. -/
def hiByte (w : Word) : Byte := w.extractLsb' 8 8

/-- `w[7:0]`, the byte of a wire word that is sent second. -/
def loByte (w : Word) : Byte := w.extractLsb' 0 8

/-- The two bytes of a wire word, most significant first (spec R63). -/
def wireWord (w : Word) : Bytes := [hiByte w, loByte w]

/-! ## Builders (41_framing.md R165 to R168) -/

/-- `buildCommandFrame(cmd)`: the command word and its PEC word (spec R110, R165). -/
def buildCommandFrame (c : Params) (cmd : Word) : Bytes := wireWord cmd ++ wireWord (commandCrc c (wireWord cmd))

/-- The data PEC word `{counter[5:0], crc10[9:0]}` of a payload (spec R112). -/
def dataPec (c : Params) (pay : Bytes) (ctr : BitVec 6) : Word := ctr ++ dataCrc c pay ctr

/-- A register frame: a payload and its data PEC (spec R113). -/
def registerFrame (c : Params) (pay : Bytes) (ctr : BitVec 6) : Bytes := pay ++ wireWord (dataPec c pay ctr)

/-- `buildWriteFrame(cmd, data, P, n, k)`: the command frame and `k` register frames of counter 0 (spec R114, R166). -/
def buildWriteFrame (c : Params) (cmd : Word) (data : Bytes) (P : Port) (n k : Nat) : Bytes :=
  buildCommandFrame c cmd ++ (List.range k).flatMap fun s => registerFrame c (payloadAt data (devOf P s n)) 0#6

/-- `buildReadTx(cmd, k)`: the command frame and `8k` filler bytes (spec R115, R167). -/
def buildReadTx (c : Params) (cmd : Word) (k : Nat) : Bytes :=
  buildCommandFrame c cmd ++ List.replicate (8 * k) c.fill

/-! ## Parser (41_framing.md R175 to R181) -/

/-- The payload of slot `s` of a receive buffer (spec R162, R175). -/
def slotPayload (rx : Bytes) (s : Nat) : Bytes := (rx.drop (slotOffset s)).take 6

/-- The PEC word of slot `s` of a receive buffer, big-endian (spec R162, R175). -/
def slotPec (rx : Bytes) (s : Nat) : Word := rx.getD (slotOffset s + 6) 0 ++ rx.getD (slotOffset s + 7) 0

/-- The received counter, the counter under test: `pw[15:10]` (spec R176). -/
def pecCounter (pw : Word) : BitVec 6 := pw.extractLsb' 10 6

/-- The received CRC: `pw[9:0]` (spec R112). -/
def pecCrc (pw : Word) : BitVec 10 := pw.extractLsb' 0 10

/-- The slot CRC check (spec R177). -/
def slotCrcOk (c : Params) (pay : Bytes) (pw : Word) : Bool := dataCrc c pay (pecCounter pw) == pecCrc pw

/-- `slotStatus(pay, pw, e)` (spec R178). -/
def slotStatus (c : Params) (pay : Bytes) (pw : Word) (e : Option (BitVec 6)) : TxStatus :=
  if !slotCrcOk c pay pw then .chainBreakError
  else
    match e with
    | none => .success
    | some x =>
      if pecCounter pw = x then .success
      else if pecCounter pw = 0 then .porError
      else .commandCounterError

/-- The status of slot `s` of a receive buffer on port `P` of a chain of `n` devices. -/
def slotResult (c : Params) (rx : Bytes) (P : Port) (n : Nat) (exp : Nat → Option (BitVec 6)) (s : Nat) : TxStatus :=
  slotStatus c (slotPayload rx s) (slotPec rx s) (exp (devOf P s n))

/-- The frame status: the worst of the `k` slots (spec R175, R179). -/
def frameStatus (c : Params) (rx : Bytes) (P : Port) (n k : Nat) (exp : Nat → Option (BitVec 6)) : TxStatus :=
  (List.range k).foldl (fun fs s => worse fs (slotResult c rx P n exp s)) .success

/-- The payloads of the `k` slots by logical device index (spec R175). -/
def frameData (rx : Bytes) (P : Port) (n k : Nat) : FrameData :=
  (List.range k).map fun s => (devOf P s n, slotPayload rx s)

/-- `parseFrame(rx, P, n, k, exp)`: the frame status, and data only on `Success` (spec R175). -/
def parseFrame (c : Params) (rx : Bytes) (P : Port) (n k : Nat) (exp : Nat → Option (BitVec 6)) :
    TxStatus × FrameData :=
  let fs := frameStatus c rx P n k exp
  (fs, if fs = .success then frameData rx P n k else [])

/-- Some slot of a `k`-slot receive buffer fails its CRC check (spec R222, R225). -/
def frameCrcFails (c : Params) (rx : Bytes) (k : Nat) : Bool :=
  (List.range k).any fun s => !slotCrcOk c (slotPayload rx s) (slotPec rx s)

/-! ## The instructions -/

/-- BUILDCMD: the command frame of any 16-bit command (spec R165). -/
def execBuildcmd (cmd : Word) (s : State) : Host.Outcome State Fault Refusal :=
  .next (s.respond (Response.ofStatus .success (buildCommandFrame s.cfg cmd)))

/-- BUILDWR: the write frame of a chain of `count` devices, all present (spec R190). -/
def execBuildwr (port : Port) (cmd : Word) (count : BitVec 32) (data : Bytes) (s : State) :
    Host.Outcome State Fault Refusal :=
  if countOk s.cfg count && lengthOk data (6 * count.toNat) then
    .next (s.respond (Response.ofStatus .success
      (buildWriteFrame s.cfg cmd data port count.toNat count.toNat)))
  else .next s.refuse

/-- PARSERD: parse the read frame of `count` devices, all present, with one expected counter (spec R191). -/
def execParserd (port : Port) (count : BitVec 32) (counter : BitVec 8) (bytes : Bytes) (s : State) :
    Host.Outcome State Fault Refusal :=
  if counterOk counter && countOk s.cfg count && lengthOk bytes (4 + 8 * count.toNat) then
    let parsed := parseFrame s.cfg bytes port count.toNat count.toNat fun _ => some (counter.setWidth 6)
    .next (s.respond (Response.ofStatus parsed.1 (parsed.2.flat count.toNat)))
  else .next s.refuse

/-- OFFSET: `value = {slot[15:0], byteOffset[15:0]}` (spec R193). -/
def execOffset (port : Port) (index count : BitVec 32) (s : State) : Host.Outcome State Fault Refusal :=
  if countOk s.cfg count && indexOk index count then
    let slot := slotOf port index.toNat count.toNat
    .next (s.respond (Response.ofValue (BitVec.ofNat 16 slot ++ BitVec.ofNat 16 (slotOffset slot))))
  else .next s.refuse

end Sys2Proof.Machine
end

