-- ==== Sys2Proof/Machine/PortDriver.lean ====
section
/-! DEFINITION. The port driver (42_port.md): transceive, activation, and the instructions WAKE and READY. -/

namespace Sys2Proof.Machine

/-- What a transceive makes of an answer: the received bytes, or `none` for `SpiError`, which a transport failure and
an answer of another length than the transmit buffer both give (spec R67, R203). -/
def replyOf (tx : Bytes) : Answer → Option Bytes
  | .bytes rx => if rx.length = tx.length then some rx else none
  | .transportError => none

/-- `transceive(P, tx)`: open the port, one exchange, close the port, also after a failure (spec R203). The first
component is the received bytes, or `none` for `SpiError`. -/
def transceive (P : Port) (tx : Bytes) (s : State) : Option Bytes × State :=
  let opened := s.setCs P .asserted
  (replyOf tx (opened.oracleAnswer tx), (opened.xfer tx).setCs P .deasserted)

/-- `m` toggles of a port's chip-select, each followed by a delay (spec R205). -/
def toggles (P : Port) (t : Nat) : Nat → State → State
  | 0, s => s
  | m + 1, s => toggles P t m (((s.setCs P .asserted).setCs P .deasserted).delayUs t)

/-- `activate(P, count, t)`: `count + 1` toggles (spec R205). -/
def activate (P : Port) (count t : Nat) (s : State) : State := toggles P t (count + 1) s

/-- WAKE: the wake pulse train on one port (spec R206). -/
def execWake (port : Port) (s : State) : Host.Outcome State Fault Refusal :=
  .next ((activate port s.cfg.deviceCount s.cfg.wakeDelayUs s).respond (Response.ofStatus .success []))

/-- READY: the ready pulse train on one port (spec R207). -/
def execReady (port : Port) (s : State) : Host.Outcome State Fault Refusal :=
  .next ((activate port s.cfg.deviceCount s.cfg.readyDelayUs s).respond (Response.ofStatus .success []))

end Sys2Proof.Machine
end

