-- ==== Sys2Proof/Machine/Topology.lean ====
section
/-! DEFINITION. The topology probe and classification, ChainTopology (43_topology.md), and the instruction PROBE. -/

namespace Sys2Proof.Machine

/-- `classify(a, b, n)` (spec R227). -/
def classify (a b n : Nat) : ChainStatus :=
  if a = n ∧ b = n then .complete
  else if a + b = n then .singleBreak
  else .multipleBreak

/-- What a probe returns: `SpiError`, or the classification, the two counts and the worst counter fault (spec R225). -/
inductive ProbeResult where
  | spiError
  | found (cs : ChainStatus) (avA avB : Nat) (pf : TxStatus)
deriving DecidableEq, Repr

/-- `av[P] <- v` in the probe's working state. -/
def ProbeState.setAv (p : ProbeState) (v : Nat) : ProbeState :=
  match p.port with
  | .A => { p with avA := v }
  | .B => { p with avB := v }

/-- A port's scan starts: `av[P] <- n` and `k` is 1 (spec R223, R225). -/
def State.startScan (s : State) (P : Port) : State :=
  s.setProbe ({ s.ctl.probe with port := P, count := 1 }.setAv s.cfg.deviceCount)

/-- A CRC-failing frame at count `k` ends the port's scan: `av[P] <- k - 1` (spec R222, R225). -/
def State.endScan (s : State) : State := s.setProbe (s.ctl.probe.setAv (s.ctl.probe.count - 1))

/-- A CRC-clean frame of status `fs`: `pf <- worse(pf, fs)`, and the next count (spec R225). -/
def State.goOnScan (s : State) (fs : TxStatus) : State :=
  s.setProbe { s.ctl.probe with pf := worse s.ctl.probe.pf fs, count := s.ctl.probe.count + 1 }

/-- The scan of the port in the probe's working state, with `left` counts still to try; `false` for `SpiError`
(spec R222, R225, R226). `exp` gives the expected counters. -/
def scanPort (exp : Nat → Option (BitVec 6)) : (left : Nat) → State → Bool × State
  | 0, s => (true, s)
  | left + 1, s =>
    let P := s.ctl.probe.port
    let k := s.ctl.probe.count
    match transceive P (buildReadTx s.cfg s.cfg.cmdRdsid k) s with
    | (none, s1) => (false, s1)
    | (some rx, s1) =>
      if frameCrcFails s1.cfg rx k then (true, s1.endScan)
      else scanPort exp left (s1.goOnScan (parseFrame s1.cfg rx P s1.cfg.deviceCount k exp).1)

/-- The probe: port A, then port B, then the classification (spec R225). The expected counters are those of class
SHARED at the start of the probe. -/
def runProbe (s : State) : ProbeResult × State :=
  let n := s.cfg.deviceCount
  let exp := expected s.cfg .shared s.chain.ctr
  let s0 := (s.setProbe { s.ctl.probe with pf := .success }).startScan .A
  match scanPort exp n s0 with
  | (false, s1) => (.spiError, s1)
  | (true, s1) =>
    match scanPort exp n (s1.startScan .B) with
    | (false, s2) => (.spiError, s2)
    | (true, s2) =>
      let p := s2.ctl.probe
      (.found (classify p.avA p.avB n) p.avA p.avB p.pf, s2)

/-- `commit(cs, av)` on ChainInfo (spec R228). -/
def ChainInfo.commit (info : ChainInfo) (cs : ChainStatus) (avA avB : Nat) : ChainInfo :=
  { info with tally := if cs ≠ info.status then 0 else info.tally, status := cs, availA := avA, availB := avB }

/-- `commit(cs, av)`: the only writer of `status` and `avail` other than INIT and reset (spec R228). -/
def State.commit (s : State) (cs : ChainStatus) (avA avB : Nat) : State :=
  s.setChain (s.chain.commit cs avA avB)

/-- The response of a PROBE that was not aborted (spec R231). -/
def probeResponse (cs : ChainStatus) (avA avB : Nat) (pf : TxStatus) : Response :=
  { Response.ofCode pf.code with
    chainStatus := cs.code, availA := BitVec.ofNat 32 avA, availB := BitVec.ofNat 32 avB }

/-- How a PROBE ends: an aborted probe commits nothing and answers `SpiError`; any other commits its result and reports
it (spec R226, R231). -/
def probeOutcome : ProbeResult × State → State
  | (.spiError, s) => s.respond (Response.ofStatus .spiError [])
  | (.found cs avA avB pf, s) => (s.commit cs avA avB).respond (probeResponse cs avA avB pf)

/-- PROBE: run the probe, commit its result and report it; no counter is reset (spec R231). The phase of its scan has no
name in the spec: DESIGN CHOICE, log entry 8. -/
def execProbe (s : State) : Host.Outcome State Fault Refusal := .next (probeOutcome (runProbe (s.enter .reprobe)))

end Sys2Proof.Machine
end

