-- ==== Sys2Proof/Machine/Transactor.lean ====
section
/-! DEFINITION. The chain transactor FSM, ChainTransactor (44_transactor.md): its helper procedures, the common
operation algorithm, and the instructions COMMAND, WRITE, READ, CTRRESET, STATUS and INIT. -/

namespace Sys2Proof.Machine

/-! ## Counter reset (44_transactor.md R253, R254) -/

/-- The ports of a counter-reset broadcast, by the status, counts and port at the moment it runs (spec R254). -/
def rstccPorts (info : ChainInfo) : List Port :=
  if info.status = .complete then [info.currentPort]
  else [Port.A, Port.B].filter fun P => decide (0 < info.avail P)

/-- `CMD_RSTCC` on each port in turn, the answers not inspected; `false` for `SpiError`, which ends it (spec R253). -/
def broadcast : List Port → State → Bool × State
  | [], s => (true, s)
  | P :: rest, s =>
    match transceive P (buildCommandFrame s.cfg s.cfg.cmdRstcc) s with
    | (none, s1) => (false, s1)
    | (some _, s1) => broadcast rest s1

/-- `counterReset(cls, r)`: the local counters first, then the broadcast (spec R253). -/
def counterReset (cls : DevClass) (r : TxStatus) (s : State) : TxStatus × State :=
  let s0 := (s.enter .counterReset).setCtr (zeroCounters cls s.chain.ctr)
  match broadcast (rstccPorts s0.chain) s0 with
  | (false, s1) => (.spiError, s1)
  | (true, s1) => (r, s1)

/-! ## Attempts (44_transactor.md R259) -/

/-- The operations that follow the common algorithm (spec R256). -/
inductive Kind where
  | command
  | write
  | read
deriving DecidableEq, Repr

/-- An operation with its operands: what every attempt of one request has in common. -/
structure Operation where
  kind : Kind
  cls : DevClass
  cmd : Word
  data : Bytes
deriving DecidableEq, Repr

/-- The transmit buffer of an attempt of `k` slots on port `P` (spec R259). -/
def attemptTx (c : Params) (op : Operation) (P : Port) (k : Nat) : Bytes :=
  match op.kind with
  | .command => buildCommandFrame c op.cmd
  | .write => buildWriteFrame c op.cmd op.data P c.deviceCount k
  | .read => buildReadTx c op.cmd k

/-- What an admitted answer means: only a READ inspects it, against the counters `snap` latched at acceptance (spec
R259, R180). -/
def attemptResult (c : Params) (snap : Counters) (op : Operation) (P : Port) (k : Nat) (rx : Bytes) :
    TxStatus × FrameData :=
  match op.kind with
  | .command | .write => (.success, [])
  | .read => parseFrame c rx P c.deviceCount k (expected c op.cls snap)

/-- One attempt of `k` slots on port `P` (spec R259). -/
def attempt (op : Operation) (P : Port) (k : Nat) (s : State) : (TxStatus × FrameData) × State :=
  match transceive P (attemptTx s.cfg op P k) s with
  | (none, s1) => ((.spiError, []), s1)
  | (some rx, s1) => (attemptResult s1.cfg s1.ctl.expSnap op P k rx, s1)

/-! ## Re-probe (44_transactor.md R264) -/

/-- What a branch of the outer loop ends in: RETRY, or the request's final status and data (spec R257). -/
inductive Verdict where
  | retry
  | done (st : TxStatus) (data : Bytes)
deriving DecidableEq, Repr

/-- A final status without data. -/
def finish (r : TxStatus × State) : Verdict × State := (.done r.1 [], r.2)

/-- What follows the commit of a re-probe that found the counter fault `pf`: a counter reset, a chain-break error or a
retry (spec R264). -/
def reprobeOutcome (pf : TxStatus) (s : State) : Verdict × State :=
  if pf.isCounterFault then finish (counterReset .shared pf s)
  else if s.ctl.iter = .second ∨ s.chain.status = .multipleBreak then (.done .chainBreakError [], s)
  else (.retry, s)

/-- `reprobe(iter)`: probe and commit; the iteration is in the control state (spec R264). -/
def reprobe (s : State) : Verdict × State :=
  match runProbe (s.enter .reprobe) with
  | (.spiError, s1) => (.done .spiError [], s1)
  | (.found cs avA avB pf, s1) => reprobeOutcome pf (s1.commit cs avA avB)

/-! ## The Complete branch (44_transactor.md R258) -/

/-- What follows a Complete-state attempt of status `r` and data `rd` (spec R258). -/
def completeOutcome (op : Operation) (r : TxStatus) (rd : FrameData) (s : State) : Verdict × State :=
  match r with
  | .spiError => (.done .spiError [], s)
  | .success =>
    let s1 := if op.kind = .command then s else s.setCurrentPort (otherPort s.chain.currentPort)
    (.done .success (if op.kind = .read then rd.flat s.cfg.deviceCount else []), s1.incCtr op.cls)
  | .porError => finish (counterReset op.cls .porError s)
  | .commandCounterError => finish (counterReset op.cls .commandCounterError s)
  | .chainBreakError => reprobe s

/-- `completeBranch`: one attempt over all devices on `currentPort` (spec R258). -/
def completeBranch (op : Operation) (s : State) : Verdict × State :=
  match attempt op s.chain.currentPort s.cfg.deviceCount (s.enter .attemptCurrent) with
  | ((r, rd), s1) => completeOutcome op r rd s1

/-! ## The dual-port branch (44_transactor.md R260 to R263, R265) -/

/-- What follows the commit of the tally-triggered probe that found the counter fault `pf` (spec R262). -/
def tallyOutcome (rd : Bytes) (pf : TxStatus) (s : State) : Verdict × State :=
  if pf.isCounterFault then finish (counterReset .shared pf s) else (.done .success rd, s)

/-- The tally-triggered probe of a SingleBreak success: commit; a counter fault resets the counters and is returned
(spec R262). -/
def tallyProbe (rd : Bytes) (s : State) : Verdict × State :=
  match runProbe (s.enter .tallyProbe) with
  | (.spiError, s1) => (.done .spiError [], s1)
  | (.found cs avA avB pf, s1) => tallyOutcome rd pf (s1.commit cs avA avB)

/-- The data of a SingleBreak success: the merged payloads of a READ, nothing for another operation (spec R262,
R265). -/
def dualData (op : Operation) (s : State) (dA dB : FrameData) : Bytes :=
  if op.kind = .read then (mergeData s.chain.availB s.cfg.deviceCount dA dB).flat s.cfg.deviceCount else []

/-- `singleSuccess`: count the success, and probe at every `DUAL_PORT_TRANSACTIONS_BEFORE_RETRY`-th one (spec
R262). -/
def singleSuccess (op : Operation) (dA dB : FrameData) (s : State) : Verdict × State :=
  let rd := dualData op s dA dB
  let s1 := s.incCtr op.cls
  let t := s.chain.tally + 1
  if t = s.cfg.dualPortLimit then tallyProbe rd (s1.setTally 0)
  else (.done .success rd, s1.setTally t)

/-- `dualEvaluate`: the worse of the two attempts decides (spec R261). -/
def dualEvaluate (op : Operation) (rA : TxStatus) (dA : FrameData) (rB : TxStatus) (dB : FrameData) (s : State) :
    Verdict × State :=
  let s0 := s.enter .evaluate
  let r := worse rA rB
  if r.isCounterFault then finish (counterReset op.cls r (s0.setTally 0))
  else if r = .chainBreakError then reprobe (s0.setTally 0)
  else if s0.chain.status = .singleBreak then singleSuccess op dA dB s0
  else reprobe s0

/-- The attempt of the dual-port branch on one port: over the devices it reaches, or skipped with `Success` where it
reaches none (spec R260). -/
def dualAttempt (op : Operation) (P : Port) (s : State) : (TxStatus × FrameData) × State :=
  if 0 < s.chain.avail P then attempt op P (s.chain.avail P) s else ((.success, []), s)

/-- A dual-port attempt that fails with `SpiError` ends the request at once (spec R260), and with it the run of
consecutive successes that the tally counts: it returns to 0 (spec R41, R261, decision D22 "on any failed dual-port
attempt"). DEDUCED, log entry 19: the pseudocode of R260 does not write that assignment. -/
def dualAborted (s : State) : Verdict × State := (.done .spiError [], s.setTally 0)

/-- `dualBranch`: port A, then port B, each ending the request on `SpiError`, then the evaluation (spec R260). -/
def dualBranch (op : Operation) (s : State) : Verdict × State :=
  match dualAttempt op .A (s.enter .attemptA) with
  | ((rA, dA), s1) =>
    if rA = .spiError then dualAborted s1
    else
      match dualAttempt op .B (s1.enter .attemptB) with
      | ((rB, dB), s2) =>
        if rB = .spiError then dualAborted s2 else dualEvaluate op rA dA rB dB s2

/-! ## The common operation (44_transactor.md R257) -/

/-- One iteration of the outer loop: the branch the chain status selects (spec R257). -/
def iteration (op : Operation) (s : State) : Verdict × State :=
  if s.chain.status = .complete then completeBranch op s else dualBranch op s

/-- The end of the outer loop. Iteration 2 never asks for a retry (spec R257, R264): were it to, the failure would be
reported up as a chain break, "a third is never attempted": DEDUCED, log entry 16. -/
def lastVerdict : Verdict × State → (TxStatus × Bytes) × State
  | (.done st rd, s) => ((st, rd), s)
  | (.retry, s) => ((.chainBreakError, []), s)

/-- `operate(op, cls, cmd, data)`: at most two iterations (spec R257). -/
def operate (op : Operation) (s : State) : (TxStatus × Bytes) × State :=
  match iteration op s.latchCounters with
  | (.done st rd, s1) => ((st, rd), s1)
  | (.retry, s1) => lastVerdict (iteration op (s1.setIter .second))

/-- Serve an operation and answer its status and data. -/
def serve (op : Operation) (s : State) : State :=
  match operate op s with
  | ((st, rd), s1) => (s1.enter .respond).respond (Response.ofStatus st rd)

/-! ## The instructions -/

/-- COMMAND: send a command to the chain (spec R267). -/
def execCommand (cls : DevClass) (cmd : Word) (s : State) : Host.Outcome State Fault Refusal :=
  .next (serve { kind := .command, cls := cls, cmd := cmd, data := [] } s)

/-- WRITE: write one 6-byte payload to every device (spec R268). -/
def execWrite (cls : DevClass) (cmd : Word) (data : Bytes) (s : State) : Host.Outcome State Fault Refusal :=
  if lengthOk data (6 * s.cfg.deviceCount) then
    .next (serve { kind := .write, cls := cls, cmd := cmd, data := data } s)
  else .next s.refuse

/-- READ: read one 6-byte payload from every device (spec R269). -/
def execRead (cls : DevClass) (cmd : Word) (s : State) : Host.Outcome State Fault Refusal :=
  .next (serve { kind := .read, cls := cls, cmd := cmd, data := [] } s)

/-- CTRRESET: explicit counter reset (spec R270). -/
def execCtrreset (cls : DevClass) (s : State) : Host.Outcome State Fault Refusal :=
  let r := counterReset cls .success s
  .next ((r.2.enter .respond).respond (Response.ofStatus r.1 []))

/-- STATUS: read the chain status (spec R271). -/
def execStatus (s : State) : Host.Outcome State Fault Refusal :=
  .next (s.respond { Response.ofCode TxStatus.success.code with chainStatus := s.chain.status.code })

/-- INIT: every ChainInfo register to its reset value, with no collaborator call (spec R272, R340). -/
def execInit (s : State) : Host.Outcome State Fault Refusal :=
  .next ((s.setChain (ChainInfo.initial s.cfg)).respond (Response.ofStatus .success []))

end Sys2Proof.Machine
end

