-- ==== Sys2Proof/Machine/Dispatch.lean ====
section
/-! DEFINITION. The one table of meanings: an arm per instruction. -/

namespace Sys2Proof.Machine

/-- The meaning of an instruction at a state. -/
def exec (i : Instr) (s : State) : Host.Outcome State Fault Refusal :=
  match i with
  | .status => Sys2Proof.Machine.execStatus s
  | .command cls cmd => Sys2Proof.Machine.execCommand cls cmd s
  | .write cls cmd data => Sys2Proof.Machine.execWrite cls cmd data s
  | .read cls cmd => Sys2Proof.Machine.execRead cls cmd s
  | .wake port => Sys2Proof.Machine.execWake port s
  | .ready port => Sys2Proof.Machine.execReady port s
  | .init => Sys2Proof.Machine.execInit s
  | .probe => Sys2Proof.Machine.execProbe s
  | .crc15 bytes => Sys2Proof.Machine.execCrc15 bytes s
  | .crc10 bytes counter => Sys2Proof.Machine.execCrc10 bytes counter s
  | .buildcmd cmd => Sys2Proof.Machine.execBuildcmd cmd s
  | .buildwr port cmd count data => Sys2Proof.Machine.execBuildwr port cmd count data s
  | .parserd port count counter bytes => Sys2Proof.Machine.execParserd port count counter bytes s
  | .offset port index count => Sys2Proof.Machine.execOffset port index count s
  | .ctrreset cls => Sys2Proof.Machine.execCtrreset cls s

end Sys2Proof.Machine
end

