-- ==== Sys2Proof/Machine/Step.lean ====
section
/-! DEFINITION. One step of the block: it serves the oldest request the host has offered, from its acceptance to its
response (20_memory.md R75, 44_transactor.md R255). -/

namespace Sys2Proof.Machine

/-- One step. With no request offered the block waits (spec R341) and nothing changes. A request is latched, decoded
and executed; one the decoder turns away is refused with `IllegalRequest` (spec R97, R99). One step serves a whole
request: DESIGN CHOICE, log entry 7. -/
def step (s : State) : Host.Outcome State Fault Refusal :=
  if s.ctl.busy then .fault .requestInFlight
  else
    match s.nextRequest with
    | none => .next s
    | some (r, rest) =>
      match decode r with
      | .ok i => exec i (s.accept r rest)
      | .error _ => .next (s.accept r rest).refuse

/-- `s` with the request of a table word as the next one the block serves: at the head of the host's requests, and no
request in flight (log entry 6). -/
def State.withFetchWord (s : State) (nbits w : Nat) : State :=
  { s with host := requestOfTableWord nbits w :: s.host, ctl := { s.ctl with busy := false } }

end Sys2Proof.Machine
end

