-- ==== Sys2Proof/Safety.lean ====
section
/-! DEFINITION. The terms the statements use: the invariant of the block between requests, the discipline of the
chip-select lines, what an event list says, scripted probe answers, and GF(2) polynomials. -/

namespace Sys2Proof.Machine

/-! ## The invariant between requests -/

/-- The relation of `status` and `avail` (spec R37) on a chain of `n` devices. -/
abbrev ChainInfo.statusFits (n : Nat) (info : ChainInfo) : Prop :=
  (info.status = .complete ↔ info.availA = n ∧ info.availB = n) ∧
  (info.status = .singleBreak ↔ info.availA + info.availB = n ∧ ¬(info.availA = n ∧ info.availB = n)) ∧
  (info.status = .multipleBreak ↔ info.availA + info.availB ≠ n ∧ ¬(info.availA = n ∧ info.availB = n))

/-- What holds of the block between requests: the parameters are in their bounds (spec R12, log entry 17), `status` and `avail` agree
(R37), each count is at most `n` (R34), the tally is below its limit (R41), no request is in flight (R43) and both
chip-selects are deasserted (R202). -/
abbrev State.Inv (s : State) : Prop :=
  s.cfg.wf = true ∧
  s.chain.statusFits s.cfg.deviceCount ∧
  s.chain.availA ≤ s.cfg.deviceCount ∧ s.chain.availB ≤ s.cfg.deviceCount ∧
  s.chain.tally < s.cfg.dualPortLimit ∧
  s.ctl.busy = false ∧ s.ctl.phase = .idle ∧
  s.cs = CsLines.idle

/-! ## Events -/

/-- The number of exchanges in an event list. -/
def xferCount : List Event → Nat
  | [] => 0
  | .xfer _ _ :: rest => xferCount rest + 1
  | _ :: rest => xferCount rest

/-- The event is a response. -/
def Event.isResponse : Event → Bool
  | .response _ => true
  | _ => false

/-- The event is an exchange that fails: `TransportError`, or an answer of another length than the transmit buffer
(spec R203). -/
def Event.isFailedXfer : Event → Bool
  | .xfer tx a => (replyOf tx a).isNone
  | _ => false

/-- The next event deasserts a line that is asserted. -/
def closesNext (lines : CsLines) : List Event → Bool
  | .setCs P level :: _ => level == .deasserted && lines.get P == .asserted
  | _ => false

/-- The chip-select lines obey spec R202 along an event list that starts with the lines at `lines`: a line is asserted
only while the other is deasserted, an exchange happens only while exactly one line is asserted and is followed at once
by that line's deassertion, and a response happens only while both are deasserted. -/
def csDisciplined (lines : CsLines) : List Event → Bool
  | [] => true
  | .setCs P level :: rest =>
    (level == .deasserted || lines.get (otherPort P) == .deasserted) && csDisciplined (lines.set P level) rest
  | .xfer _ _ :: rest => (lines.a != lines.b) && closesNext lines rest && csDisciplined lines rest
  | .delayUs _ :: rest => csDisciplined lines rest
  | .response _ :: rest => (lines == CsLines.idle) && csDisciplined lines rest

/-- A request was served from `s` to `t`: the events `evs`, none of them a response, and then the response `r`. -/
abbrev Answered (s t : State) (evs : List Event) (r : Response) : Prop :=
  t.trace = s.trace ++ evs ++ [.response r] ∧ (∀ e ∈ evs, e.isResponse = false)

/-- The three events of an exchange on a port (spec R203). -/
def exchangeEvents (P : Port) (tx : Bytes) (a : Answer) : List Event :=
  [.setCs P .asserted, .xfer tx a, .setCs P .deasserted]

/-! ## Scripted probe answers -/

/-- The answers `script` make a port's scan find `a` devices: the frames of 1 to `a` slots are CRC-clean, and the frame
of `a + 1` slots, if the chain is that long, is not (spec R222). -/
abbrev ScanScript (c : Params) (a : Nat) (script : List Bytes) : Prop :=
  a ≤ c.deviceCount ∧
  script.length = (if a < c.deviceCount then a + 1 else a) ∧
  ∀ j < script.length, (script.getD j []).length = 4 + 8 * (j + 1) ∧
    frameCrcFails c (script.getD j []) (j + 1) = decide (j = a)

/-- The worst counter fault of the CRC-clean frames of a port's script: `pf` after the scan (spec R225). -/
def scriptFault (c : Params) (P : Port) (exp : Nat → Option (BitVec 6)) (a : Nat) (script : List Bytes)
    (pf : TxStatus) : TxStatus :=
  (List.range a).foldl (fun acc j => worse acc (frameStatus c (script.getD j []) P c.deviceCount (j + 1) exp)) pf

/-! ## Polynomials over GF(2) -/

/-- The polynomial of a bit string, the first bit the highest coefficient. -/
noncomputable def gf2 (bits : List Bool) : Polynomial (ZMod 2) :=
  bits.foldl (fun p b => p * Polynomial.X + (if b then 1 else 0)) 0

end Sys2Proof.Machine
end

