-- ==== Sys2Proof/Certificates/Slice0/Obligations.lean ====
section
/-! DEFINITION. The statements about the block, for the provers. Each docstring names the rules of spec/ it formalises.
The block has no addressable memory (spec R60), so a frame speaks of every field of the state and of no byte of
memory. Where a statement gives control-state fields other than `busy` and `phase` after a response (`req`, `iter`,
`expSnap`), it says what this model keeps in them (log entries 11 and 18, DESIGN CHOICE): by R43 they carry no
information between requests. -/

section

open Sys2Proof Sys2Proof.Machine

/-! ## Encoding of requests -/

/-- Decoding an encoded instruction gives it back, with every operand at every value (R91, R93 to R96, R102). -/
def Obligations.DecodeOfEncode : Prop := ∀ i : Instr, decode (encode i) = .ok i

/-- A request the decoder accepts is the encoding of the instruction it reads: no accepted request carries anything
else (R94, R97 checks 1 to 5). -/
def Obligations.EncodeOfDecode : Prop := ∀ (r : Request) (i : Instr), decode r = .ok i → encode i = r

/-- Descriptor words written out in the spec decode to the requests they stand for (R122). -/
def Obligations.SpecDescriptorsDecode : Prop :=
  decode (Request.ofDesc 0x00000000#32) = .ok .status ∧
  decode (Request.ofDesc 0x0023002C#32) = .ok (.read .shared 0x002C#16) ∧
  decode { Request.ofDesc 0x00020001#32 with data := [1, 2, 3, 4, 5, 6] } = .ok (.write .cell 0x0001#16 [1, 2, 3, 4, 5, 6]) ∧
  decode (Request.ofDesc 0x00110027#32) = .ok (.command .pack 0x0027#16) ∧
  decode (Request.ofDesc 0x00440000#32) = .ok (.wake .B) ∧
  decode (Request.ofDesc 0x00050000#32) = .ok (.ready .A) ∧
  decode { Request.ofDesc 0x004C0000#32 with count := 2, counter := 5, bytes := [7] } = .ok (.parserd .B 2 5 [7]) ∧
  decode (Request.ofDesc 0x002E0000#32) = .ok (.ctrreset .shared)

/-- Every request in the reserved space, `OP = 0xF`, `CLS = 3` whatever the op, or a nonzero bit of 31:23, is refused:
the response is `IllegalRequest`, no collaborator is called, and no state is written (R101, R99) but the control state:
the block is idle again, and `req` holds the request that R255 latched before the check, which is the model's choice (log
entry 11). -/
def Obligations.ReservedEncodingsAreRefused : Prop :=
  ∀ (s : State) (r : Request) (rest : List Request), s.ctl.busy = false → s.host = r :: rest →
    (r.desc.extractLsb' 16 4 = 0xF#4 ∨ r.desc.extractLsb' 23 9 ≠ 0#9 ∨
      r.desc.extractLsb' 20 2 = 3#2) →
    step s = .next { s with
      host := rest
      trace := s.trace ++ [.response ⟨7, 0, 0, 0, [], 0⟩]
      ctl := { s.ctl with busy := false, req := r, phase := .idle } }

/-- A request with a nonzero descriptor field or record field that its op does not use is refused (R97 checks 3 and 4,
R94): a STATUS, INIT or PROBE with any nonzero field, a READ with a PORT, a WAKE with a CLS, a CRC15 with a
counter, and so on for every op. After the refusal `req` holds the request that R255 latched before the check, which is
the model's choice (log entry 11); nothing else is written (R99). -/
def Obligations.UnusedFieldsAreRefused : Prop :=
  ∀ (s : State) (r : Request) (rest : List Request) (op : Op), s.ctl.busy = false → s.host = r :: rest →
    opOfCode (r.desc.extractLsb' 16 4) = some op →
    (((opUses op).cmd = false ∧ r.desc.extractLsb' 0 16 ≠ 0#16) ∨
      ((opUses op).cls = false ∧ r.desc.extractLsb' 20 2 ≠ 0#2) ∨
      ((opUses op).port = false ∧ r.desc.extractLsb' 22 1 ≠ 0#1) ∨
      ((opUses op).data = false ∧ r.data ≠ []) ∨
      ((opUses op).bytes = false ∧ r.bytes ≠ []) ∨
      ((opUses op).count = false ∧ r.count ≠ 0) ∨
      ((opUses op).index = false ∧ r.index ≠ 0) ∨
      ((opUses op).counter = false ∧ r.counter ≠ 0)) →
    step s = .next { s with
      host := rest
      trace := s.trace ++ [.response ⟨7, 0, 0, 0, [], 0⟩]
      ctl := { s.ctl with busy := false, req := r, phase := .idle } }

/-- An instruction that fails one of the operand checks 6 to 9 of R97 gets `IllegalRequest` and changes nothing else,
and a well-formed one is never answered with `IllegalRequest` (R97, R98, R99, R301). -/
def Obligations.IllegalRequestExactlyWhenIllFormed : Prop :=
  (∀ (i : Instr) (s : State), i.wf s.cfg = false →
    exec i s = .next { s with
      trace := s.trace ++ [.response ⟨7, 0, 0, 0, [], 0⟩]
      ctl := { s.ctl with busy := false, phase := .idle } }) ∧
  (∀ (i : Instr) (s t : State) (evs : List Event) (r : Response), i.wf s.cfg = true → exec i s = .next t →
    Answered s t evs r → r.status ≠ 7#3)

/-! ## The step -/

/-- A step runs the instruction its oldest request decodes to, with that request taken off the host's queue and
latched (R255, R75). -/
def Obligations.StepRunsTheDecodedInstruction : Prop :=
  ∀ (s : State) (r : Request) (rest : List Request) (i : Instr), s.ctl.busy = false → s.host = r :: rest →
    decode r = .ok i →
    step s = exec i { s with host := rest, ctl := { s.ctl with busy := true, req := r } }

/-- With no request offered the block waits (R341). -/
def Obligations.IdleBlockWaits : Prop :=
  ∀ s : State, s.ctl.busy = false → s.host = [] → step s = .next s

/-- Every request completes with exactly one response, its last event, and leaves the block idle, the configuration as
it was, the other requests waiting, and one transport answer used up per exchange (R312, R75, R255, R30, R31). That `req`
then still holds the request is the model's choice (log entry 18). -/
def Obligations.EveryRequestIsAnswered : Prop :=
  ∀ (s : State) (r : Request) (rest : List Request), s.ctl.busy = false → s.host = r :: rest →
    ∃ (t : State) (evs : List Event) (resp : Response), step s = .next t ∧ Answered s t evs resp ∧
      t.ctl.busy = false ∧ t.ctl.phase = .idle ∧ t.ctl.req = r ∧
      t.cfg = s.cfg ∧ t.host = rest ∧ t.answers = s.answers.drop (xferCount evs)

/-- Block reset leaves ChainInfo at `Complete`, both counts `n`, port A, both counters and the tally 0, the control state
idle and no collaborator call made (R340, R341, R342); the invariant of the block between requests holds there, for
every instance within the model's bounds (R12; the range of the tally limit is log entry 17), and so at the model's reset
state, whose instance is the model's choice (log entries 1 and 2). The invariant's clause that both chip-select lines are
deasserted rests at reset on log entry 9 (DEDUCED): R342 only assumes it of the platform until the block first drives
them. -/
def Obligations.InvariantAtReset : Prop :=
  (∀ c : Params,
    (State.resetOf c).chain = { status := .complete, availA := c.deviceCount, availB := c.deviceCount,
                                currentPort := .A, ctr := { cell := 0, pack := 0 }, tally := 0 } ∧
    (State.resetOf c).ctl.busy = false ∧ (State.resetOf c).ctl.phase = .idle ∧ (State.resetOf c).trace = [] ∧
    (State.resetOf c).cfg = c) ∧
  (∀ c : Params, c.wf = true → (State.resetOf c).Inv) ∧ State.reset.Inv

/-- Every step keeps the invariant: parameters in bounds, `status` and `avail` agree (R37), counts at most `n` (R34),
the tally below its limit (R41), the block idle (R43), both chip-selects deasserted (R202). -/
def Obligations.StepKeepsTheInvariant : Prop :=
  ∀ s t : State, s.Inv → step s = .next t → t.Inv

/-- The tally counts within one SingleBreak period: outside `SingleBreak` it is 0, and every step keeps that (R41,
R228, R261, R262). -/
def Obligations.TallyIsZeroOutsideSingleBreak : Prop :=
  ∀ s t : State, (s.chain.status ≠ .singleBreak → s.chain.tally = 0) → step s = .next t →
    (t.chain.status ≠ .singleBreak → t.chain.tally = 0)

/-- The chip-select lines: along the events of any step the block never asserts both ports at once, exchanges only while
exactly one is asserted and deasserts it right after, and responds only with both deasserted (R202, R203, R205). -/
def Obligations.ChipSelectDiscipline : Prop :=
  ∀ s t : State, s.cs = CsLines.idle → step s = .next t →
    t.cs = CsLines.idle ∧ ∃ evs, t.trace = s.trace ++ evs ∧ csDisciplined CsLines.idle evs = true

/-- `SpiError` and only `SpiError` follows a failed exchange, at its first occurrence: a request's response is
`SpiError` if and only if one of its exchanges failed, and nothing follows that exchange but the deassertion of the
chip-select and the response (R275, R302, R308). -/
def Obligations.FailedExchangeEndsTheRequest : Prop :=
  ∀ (s t : State) (i : Instr) (evs : List Event) (r : Response), exec i s = .next t → Answered s t evs r →
    (r.status = 2#3 ↔ ∃ e ∈ evs, e.isFailedXfer = true) ∧
    (∀ (pre post : List Event) (e : Event), evs = pre ++ e :: post → e.isFailedXfer = true →
      ∃ P, post = [.setCs P .deasserted])

/-! ## CRC engine -/

/-- The 15-bit command CRC is the remainder of a polynomial division over GF(2) by
`x^15 + CRC15_POLY`: the seed, shifted past the message, plus the message times `x^15`, plus the CRC, is a multiple of
the generator (R131). -/
def Obligations.CommandCrcIsTheRemainder : Prop :=
  ∀ (c : Params) (bs : Bytes), ∃ q : Polynomial (ZMod 2),
    gf2 (msbFirst c.crc15Seed) * Polynomial.X ^ (8 * bs.length) + gf2 (bs.flatMap msbFirst) * Polynomial.X ^ 15 +
      gf2 (msbFirst (crc15Of c bs)) = q * (Polynomial.X ^ 15 + gf2 (msbFirst c.crc15Poly))

/-- The 10-bit data CRC is the remainder, by `x^10 + CRC10_POLY[9:0]`, of the data bits followed by the 6 counter bits
(R138, R139). -/
def Obligations.DataCrcIsTheRemainder : Prop :=
  ∀ (c : Params) (bs : Bytes) (ctr : BitVec 6), ∃ q : Polynomial (ZMod 2),
    gf2 (msbFirst c.crc10Seed) * Polynomial.X ^ (8 * bs.length + 6) +
      gf2 (bs.flatMap msbFirst ++ msbFirst ctr) * Polynomial.X ^ 10 + gf2 (msbFirst (dataCrc c bs ctr)) =
      q * (Polynomial.X ^ 10 + gf2 (msbFirst (c.crc10Poly.setWidth 10)))

/-- The command CRC word is `{crc15, 0}`: the remainder in bits 15:1, bit 0 always 0 (R132, R111). -/
def Obligations.CommandCrcWordLayout : Prop :=
  ∀ (c : Params) (bs : Bytes), (commandCrc c bs).extractLsb' 1 15 = crc15Of c bs ∧ (commandCrc c bs).getLsbD 0 = false

/-- The table-driven forms of the command CRC and of the data bytes' part of the data CRC agree with the bit-serial ones
on every byte string and for every parameter (R133, R137, R141, R142). -/
def Obligations.CrcTableFormsAgree : Prop :=
  ∀ (c : Params) (bs : Bytes), commandCrcByTable c bs = commandCrc c bs ∧
    crc10BytesByTable c bs = crcBytes (c.crc10Poly.setWidth 10) c.crc10Seed bs

/-- Different counters give different data CRCs of the same bytes, for a generator with a constant term, such as the
default one (R140). -/
def Obligations.CountersGiveDifferentDataCrcs : Prop :=
  ∀ (c : Params) (bs : Bytes) (x y : BitVec 6), c.crc10Poly.getLsbD 0 = true → x ≠ y → dataCrc c bs x ≠ dataCrc c bs y

/-- CRC15 answers the command CRC word of its bytes, of any length, and changes nothing else (R135). -/
def Obligations.Crc15Answers : Prop :=
  ∀ (bs : Bytes) (s : State),
    exec (.crc15 bs) s = .next { s with
      trace := s.trace ++ [.response ⟨0, 0, 0, 0, [], (commandCrc s.cfg bs).setWidth 32⟩]
      ctl := { s.ctl with busy := false, phase := .idle } }

/-- CRC10 answers the data CRC of its bytes, of any length, and a counter of 0..63, and changes nothing else (R140). -/
def Obligations.Crc10Answers : Prop :=
  ∀ (bs : Bytes) (counter : BitVec 8) (s : State), counter.toNat ≤ 63 →
    exec (.crc10 bs counter) s = .next { s with
      trace := s.trace ++ [.response ⟨0, 0, 0, 0, [], (dataCrc s.cfg bs (counter.extractLsb' 0 6)).setWidth 32⟩]
      ctl := { s.ctl with busy := false, phase := .idle } }

/-! ## Framing -/

/-- BUILDCMD answers `{cmd[15:8], cmd[7:0], w[15:8], w[7:0]}` with `w` the command CRC word of the first two bytes, for
every 16-bit command, and changes nothing else (R165, R110). -/
def Obligations.BuildcmdAnswers : Prop :=
  ∀ (cmd : Word) (s : State),
    exec (.buildcmd cmd) s = .next { s with
      trace := s.trace ++ [.response ⟨0, 0, 0, 0,
        [cmd.extractLsb' 8 8, cmd.extractLsb' 0 8,
          (commandCrc s.cfg [cmd.extractLsb' 8 8, cmd.extractLsb' 0 8]).extractLsb' 8 8,
          (commandCrc s.cfg [cmd.extractLsb' 8 8, cmd.extractLsb' 0 8]).extractLsb' 0 8], 0⟩]
      ctl := { s.ctl with busy := false, phase := .idle } }

/-- BUILDWR with legal operands answers a frame of `4 + 8m` bytes: the command frame, and for EVERY device `i` its
payload at `4 + 8 * slot` and its PEC word `{000000, dataCrc(payload, 0)}` after it, where the slot of `i` is `i` on port
B and `m - 1 - i` on port A (R190, R166, R164, R162). Nothing else changes. -/
def Obligations.BuildwrPlacesEveryDevice : Prop :=
  ∀ (P : Port) (cmd : Word) (count : BitVec 32) (data : Bytes) (s : State),
    1 ≤ count.toNat → count.toNat ≤ s.cfg.maxDevices → data.length = 6 * count.toNat →
    ∃ frame : Bytes,
      exec (.buildwr P cmd count data) s = .next { s with
        trace := s.trace ++ [.response ⟨0, 0, 0, 0, frame, 0⟩]
        ctl := { s.ctl with busy := false, phase := .idle } } ∧
      frame.length = 4 + 8 * count.toNat ∧
      frame.take 4 = [cmd.extractLsb' 8 8, cmd.extractLsb' 0 8,
        (commandCrc s.cfg [cmd.extractLsb' 8 8, cmd.extractLsb' 0 8]).extractLsb' 8 8,
        (commandCrc s.cfg [cmd.extractLsb' 8 8, cmd.extractLsb' 0 8]).extractLsb' 0 8] ∧
      ∀ i < count.toNat,
        let o := 4 + 8 * (if P = .B then i else count.toNat - 1 - i)
        let pay := (data.drop (6 * i)).take 6
        (frame.drop o).take 6 = pay ∧
        frame.getD (o + 6) 0 ++ frame.getD (o + 7) 0 = (0#6 ++ dataCrc s.cfg pay 0#6 : BitVec 16)

/-- PARSERD with legal operands answers the worst status of its slots, and, only on `Success`, the payloads in logical
device order; nothing else changes (R191, R175, R179). -/
def Obligations.ParserdAnswersTheWorstSlot : Prop :=
  ∀ (P : Port) (count : BitVec 32) (counter : BitVec 8) (bytes : Bytes) (s : State),
    1 ≤ count.toNat → count.toNat ≤ s.cfg.maxDevices → counter.toNat ≤ 63 → bytes.length = 4 + 8 * count.toNat →
    ∃ (fs : TxStatus) (out : Bytes),
      exec (.parserd P count counter bytes) s = .next { s with
        trace := s.trace ++ [.response ⟨fs.code, 0, 0, 0, out, 0⟩]
        ctl := { s.ctl with busy := false, phase := .idle } } ∧
      (∀ j < count.toNat,
        (slotStatus s.cfg (slotPayload bytes j) (slotPec bytes j) (some (counter.extractLsb' 0 6))).rank ≤ fs.rank) ∧
      (∃ j < count.toNat,
        fs = slotStatus s.cfg (slotPayload bytes j) (slotPec bytes j) (some (counter.extractLsb' 0 6))) ∧
      (fs ≠ .success → out = []) ∧
      (fs = .success → out = (List.range count.toNat).flatMap fun i =>
        (bytes.drop (4 + 8 * (if P = .B then i else count.toNat - 1 - i))).take 6)

/-- The slot status: the CRC check first, then a match with the expected counter (0 = 0 included) or no expectation is
`Success`, then a received 0 is `PorError`, and any other counter is `CommandCounterError` (R178, R176, R177). -/
def Obligations.SlotStatusRule : Prop :=
  ∀ (c : Params) (pay : Bytes) (rc : BitVec 6) (crc : BitVec 10) (e : Option (BitVec 6)),
    (dataCrc c pay rc ≠ crc → slotStatus c pay (rc ++ crc) e = .chainBreakError) ∧
    (dataCrc c pay rc = crc → (e = none ∨ e = some rc) → slotStatus c pay (rc ++ crc) e = .success) ∧
    (dataCrc c pay rc = crc → e ≠ none → e ≠ some rc → rc = 0 → slotStatus c pay (rc ++ crc) e = .porError) ∧
    (dataCrc c pay rc = crc → e ≠ none → e ≠ some rc → rc ≠ 0 →
      slotStatus c pay (rc ++ crc) e = .commandCounterError)

/-- Flipping any one of the 64 bits of a CRC-valid register frame makes PARSERD report `ChainBreakError`, with no data,
whatever the expected counter, on either port (R143, R177). The generator has more than one term. -/
def Obligations.AnyFlippedBitIsAChainBreak : Prop :=
  ∀ (s : State) (P : Port) (counter : BitVec 8) (head pay : Bytes) (rc : BitVec 6) (j b : Nat),
    1 ≤ s.cfg.maxDevices → counter.toNat ≤ 63 → s.cfg.crc10Poly.setWidth 10 ≠ 0#10 →
    head.length = 4 → pay.length = 6 → j < 8 → b < 8 →
    exec (.parserd P 1 counter
        (head ++ (registerFrame s.cfg pay rc).modify j fun x => x ^^^ (1#8 <<< b))) s =
      .next { s with
        trace := s.trace ++ [.response ⟨1, 0, 0, 0, [], 0⟩]
        ctl := { s.ctl with busy := false, phase := .idle } }

/-- Round trip: parsing the write frame of a payload list on its own port gives the payloads back in logical order when
the expected counter is 0, and `PorError` without data for any other expected counter (R192). -/
def Obligations.WriteFrameRoundTrip : Prop :=
  ∀ (s : State) (P : Port) (cmd : Word) (count : BitVec 32) (data : Bytes) (counter : BitVec 8),
    1 ≤ count.toNat → count.toNat ≤ s.cfg.maxDevices → data.length = 6 * count.toNat → counter.toNat ≤ 63 →
    exec (.parserd P count counter (buildWriteFrame s.cfg cmd data P count.toNat count.toNat)) s =
      .next { s with
        trace := s.trace ++ [.response (if counter = 0 then ⟨0, 0, 0, 0, data, 0⟩ else ⟨3, 0, 0, 0, [], 0⟩)]
        ctl := { s.ctl with busy := false, phase := .idle } }

/-- Bytes 0 to 3 of a receive buffer are not read (R181): the parser, which every READ and probe frame goes through, the
frame-level CRC check of the probe, and PARSERD answer the same for any two headers. -/
def Obligations.HeaderBytesAreIgnored : Prop :=
  ∀ h h' body : Bytes, h.length = 4 → h'.length = 4 →
    (∀ (c : Params) (P : Port) (n k : Nat) (exp : Nat → Option (BitVec 6)),
      parseFrame c (h ++ body) P n k exp = parseFrame c (h' ++ body) P n k exp) ∧
    (∀ (c : Params) (k : Nat), frameCrcFails c (h ++ body) k = frameCrcFails c (h' ++ body) k) ∧
    (∀ (s : State) (P : Port) (count : BitVec 32) (counter : BitVec 8),
      exec (.parserd P count counter (h ++ body)) s = exec (.parserd P count counter (h' ++ body)) s)

/-- OFFSET with legal operands answers the slot in `value[31:16]` and the byte offset `4 + 8 * slot` in `value[15:0]`,
each cut to 16 bits, and changes nothing else; up to 8190 devices nothing is cut (R193, R164). That a count above 8190
is accepted and its offset cut is the model's choice among those R193 leaves (log entry 2). -/
def Obligations.OffsetAnswers : Prop :=
  ∀ (P : Port) (index count : BitVec 32) (s : State),
    1 ≤ count.toNat → count.toNat ≤ s.cfg.maxDevices → index.toNat < count.toNat →
    ∃ value : BitVec 32,
      exec (.offset P index count) s = .next { s with
        trace := s.trace ++ [.response ⟨0, 0, 0, 0, [], value⟩]
        ctl := { s.ctl with busy := false, phase := .idle } } ∧
      let slot := if P = .B then index.toNat else count.toNat - 1 - index.toNat
      (value.extractLsb' 16 16).toNat = slot % 2 ^ 16 ∧ (value.extractLsb' 0 16).toNat = (4 + 8 * slot) % 2 ^ 16 ∧
      (count.toNat ≤ 8190 → value.toNat = slot * 2 ^ 16 + (4 + 8 * slot))

/-- A `k`-slot frame carries exactly the `k` devices nearest its port, one per slot (R161, R164): device 0 is nearest B,
device `n - 1` nearest A. -/
def Obligations.SlotsCarryTheNearestDevices : Prop :=
  ∀ (P : Port) (k n : Nat), k ≤ n →
    ((List.range k).map fun j => devOf P j n).Perm (reachable P k n) ∧
    (∀ j < k, slotOf P (devOf P j n) n = j) ∧
    (∀ i, i ∈ reachable P k n ↔ if P = .B then i < k else n - k ≤ i ∧ i < n)

/-! ## Port driver -/

/-- One exchange opens the port, exchanges once and closes the port, also after a failure; an answer of the transmit
buffer's length is returned, any other answer is `SpiError` (R203, R67). -/
def Obligations.TransceiveOpensExchangesAndCloses : Prop :=
  ∀ (s : State) (P : Port) (tx : Bytes) (a : Answer) (rest : List Answer), s.answers = a :: rest →
    (transceive P tx s).2 = { s with
      cs := s.cs.set P .deasserted
      answers := rest
      trace := s.trace ++ [.setCs P .asserted, .xfer tx a, .setCs P .deasserted] } ∧
    (∀ rx, a = .bytes rx → rx.length = tx.length → (transceive P tx s).1 = some rx) ∧
    (∀ rx, a = .bytes rx → rx.length ≠ tx.length → (transceive P tx s).1 = none) ∧
    (a = .transportError → (transceive P tx s).1 = none)

/-- WAKE toggles its port's chip-select `n + 1` times with `DelayUs(WAKE_DELAY_US)` after each toggle, READY with
`DelayUs(READY_DELAY_US)`; each answers `Success` and changes nothing else (R206, R207, R205). -/
def Obligations.WakeAndReadyPulses : Prop :=
  ∀ (P : Port) (s : State),
    let after := fun delay : Nat => { s with
      cs := s.cs.set P .deasserted
      trace := s.trace ++
        (List.replicate (s.cfg.deviceCount + 1)
          [Event.setCs P .asserted, Event.setCs P .deasserted, Event.delayUs delay]).flatten ++
        [Event.response ⟨0, 0, 0, 0, [], 0⟩]
      ctl := { s.ctl with busy := false, phase := .idle } }
    exec (.wake P) s = .next (after s.cfg.wakeDelayUs) ∧ exec (.ready P) s = .next (after s.cfg.readyDelayUs)

/-! ## Topology -/

/-- The classification (R227): both counts `n` is `Complete`; otherwise a sum of exactly `n` is `SingleBreak`, `(n, 0)`
and `(0, n)` included; everything else, sums above `n` included, is `MultipleBreak`. -/
def Obligations.ClassificationRule : Prop :=
  ∀ a b n : Nat,
    (classify a b n = .complete ↔ a = n ∧ b = n) ∧
    (classify a b n = .singleBreak ↔ a + b = n ∧ ¬(a = n ∧ b = n)) ∧
    (classify a b n = .multipleBreak ↔ a + b ≠ n ∧ ¬(a = n ∧ b = n))

/-- PROBE on a chain that answers cleanly up to `a` slots on port A and `b` slots on port B finds exactly `(a, b)`: it
classifies and commits it, reports it with the worst counter fault of the clean frames, resets no counter, and makes
one exchange per frame of the incremental scan, port A first (R222, R223, R225, R228, R229, R231). -/
def Obligations.ProbeFindsTheReachableDevices : Prop :=
  ∀ (s : State) (a b : Nat) (sa sb : List Bytes) (rest : List Answer),
    ScanScript s.cfg a sa → ScanScript s.cfg b sb → s.answers = (sa ++ sb).map Answer.bytes ++ rest →
    let n := s.cfg.deviceCount
    let exp := expected s.cfg .shared s.chain.ctr
    let pf := scriptFault s.cfg .B exp b sb (scriptFault s.cfg .A exp a sa .success)
    ∃ t : State, exec .probe s = .next t ∧
      t.chain = { s.chain with
        status := classify a b n
        availA := a
        availB := b
        tally := if classify a b n = s.chain.status then s.chain.tally else 0 } ∧
      t.trace = s.trace ++
        (List.range sa.length).flatMap (fun j =>
          exchangeEvents .A (buildReadTx s.cfg s.cfg.cmdRdsid (j + 1)) (.bytes (sa.getD j []))) ++
        (List.range sb.length).flatMap (fun j =>
          exchangeEvents .B (buildReadTx s.cfg s.cfg.cmdRdsid (j + 1)) (.bytes (sb.getD j []))) ++
        [.response ⟨pf.code, (classify a b n).code, BitVec.ofNat 32 a, BitVec.ofNat 32 b, [], 0⟩] ∧
      t.answers = rest ∧ t.cfg = s.cfg ∧ t.host = s.host

/-- A failed exchange aborts a PROBE: it answers `SpiError` and commits nothing, no ChainInfo register changes (R226). -/
def Obligations.AbortedProbeCommitsNothing : Prop :=
  ∀ (s t : State) (evs : List Event) (r : Response), exec .probe s = .next t → Answered s t evs r →
    (∃ e ∈ evs, e.isFailedXfer = true) → t.chain = s.chain ∧ r = ⟨2, 0, 0, 0, [], 0⟩

/-- The frame of PROBE, aborted or not: no command counter, not `currentPort`, not the latched operands (R229,
R231). -/
def Obligations.ProbeFrame : Prop :=
  ∀ s t : State, exec .probe s = .next t →
    t.chain.ctr = s.chain.ctr ∧ t.chain.currentPort = s.chain.currentPort ∧ t.cfg = s.cfg ∧ t.host = s.host ∧
    t.ctl.req = s.ctl.req ∧ t.ctl.iter = s.ctl.iter ∧ t.ctl.expSnap = s.ctl.expSnap

/-- A probe that is not aborted makes `x(av[A]) + x(av[B])` exchanges, `x(c) = c + 1` below `n` and `x(n) = n` (R230). -/
def Obligations.ProbeExchangeCount : Prop :=
  ∀ (s t : State) (evs : List Event) (r : Response), exec .probe s = .next t → Answered s t evs r → r.status ≠ 2#3 →
    let x := fun c => if c < s.cfg.deviceCount then c + 1 else s.cfg.deviceCount
    xferCount evs = x t.chain.availA + x t.chain.availB

/-! ## Transactor: counters, reset of counters, STATUS and INIT -/

/-- The counter increment never gives 0, wraps 63 to 1, and otherwise adds 1; 63 increments from 1 return to 1 and
never pass 0 (R251). -/
def Obligations.CounterIncrement : Prop :=
  (∀ c : BitVec 6, inc c ≠ 0#6 ∧ inc 63#6 = 1#6 ∧ (c ≠ 63#6 → (inc c).toNat = c.toNat + 1)) ∧
  inc^[63] 1#6 = 1#6 ∧ ∀ k, inc^[k] 1#6 ≠ 0#6

/-- STATUS answers the chain status and changes nothing else (R271). -/
def Obligations.StatusAnswers : Prop :=
  ∀ s : State,
    exec .status s = .next { s with
      trace := s.trace ++ [.response ⟨0,
        (match s.chain.status with | .complete => 0 | .singleBreak => 1 | .multipleBreak => 2), 0, 0, [], 0⟩]
      ctl := { s.ctl with busy := false, phase := .idle } }

/-- INIT sets every ChainInfo register to its reset value, keeps the configuration and calls no collaborator (R272,
R340). -/
def Obligations.InitResetsChainInfo : Prop :=
  ∀ s : State,
    exec .init s = .next { s with
      chain := { status := .complete, availA := s.cfg.deviceCount, availB := s.cfg.deviceCount, currentPort := .A,
                 ctr := { cell := 0, pack := 0 }, tally := 0 }
      trace := s.trace ++ [.response ⟨0, 0, 0, 0, [], 0⟩]
      ctl := { s.ctl with busy := false, phase := .idle } }

/-- CTRRESET zeroes the covered counters, sends one `CMD_RSTCC` command frame on `currentPort` in `Complete` and on
each port with `avail > 0` otherwise, port A first, and changes nothing else (R270, R253, R254). -/
def Obligations.CtrresetBroadcasts : Prop :=
  ∀ (cls : DevClass) (s : State) (replies : List Bytes) (rest : List Answer),
    let ports := if s.chain.status = .complete then [s.chain.currentPort]
      else (if 0 < s.chain.availA then [Port.A] else []) ++ (if 0 < s.chain.availB then [Port.B] else [])
    replies.length = ports.length → (∀ rx ∈ replies, rx.length = 4) → s.answers = replies.map Answer.bytes ++ rest →
    exec (.ctrreset cls) s = .next { s with
      chain := { s.chain with ctr :=
        { cell := if cls = .pack then s.chain.ctr.cell else 0
          pack := if cls = .cell then s.chain.ctr.pack else 0 } }
      cs := ports.foldl (fun lines P => lines.set P .deasserted) s.cs
      answers := rest
      trace := s.trace ++
        (List.zipWith (fun P rx => exchangeEvents P (buildCommandFrame s.cfg s.cfg.cmdRstcc) (.bytes rx))
          ports replies).flatten ++
        [.response ⟨0, 0, 0, 0, [], 0⟩]
      ctl := { s.ctl with busy := false, phase := .idle } }

/-- The local counters are zeroed before the broadcast and stay zero where it fails; nothing else of ChainInfo changes
in either case (R253, R275). -/
def Obligations.CtrresetFrame : Prop :=
  ∀ (cls : DevClass) (s t : State), exec (.ctrreset cls) s = .next t →
    t.chain = { s.chain with ctr :=
      { cell := if cls = .pack then s.chain.ctr.cell else 0
        pack := if cls = .cell then s.chain.ctr.pack else 0 } } ∧
    t.cfg = s.cfg ∧ t.host = s.host ∧ t.ctl = { s.ctl with busy := false, phase := .idle } ∧
    ∃ evs r, Answered s t evs r ∧ xferCount evs ≤ 2 ∧ t.answers = s.answers.drop (xferCount evs)

/-! ## Transactor: COMMAND, WRITE and READ on a complete chain -/

/-- COMMAND in `Complete`: one exchange of the command frame on `currentPort`, whose answer's bytes are not inspected;
the covered counters are incremented, `currentPort` is not flipped, nothing else of ChainInfo changes (R267, R258,
R259, R252). After the response `iter` and `expSnap` hold what R255 latched, which is the model's choice (log entry
18). -/
def Obligations.CommandOnACompleteChain : Prop :=
  ∀ (cls : DevClass) (cmd : Word) (s : State) (rx : Bytes) (rest : List Answer),
    s.chain.status = .complete → s.answers = .bytes rx :: rest → rx.length = 4 →
    exec (.command cls cmd) s = .next { s with
      chain := { s.chain with ctr :=
        { cell := if cls = .pack then s.chain.ctr.cell else inc s.chain.ctr.cell
          pack := if cls = .cell then s.chain.ctr.pack else inc s.chain.ctr.pack } }
      cs := s.cs.set s.chain.currentPort .deasserted
      answers := rest
      trace := s.trace ++ exchangeEvents s.chain.currentPort (buildCommandFrame s.cfg cmd) (.bytes rx) ++
        [.response ⟨0, 0, 0, 0, [], 0⟩]
      ctl := { s.ctl with busy := false, phase := .idle, iter := .first, expSnap := s.chain.ctr } }

/-- WRITE in `Complete`: one exchange of the write frame of all `n` devices on `currentPort`; the covered counters are
incremented and `currentPort` is flipped (R268, R258, R259, R252). After the response `iter` and `expSnap` hold what R255
latched, which is the model's choice (log entry 18). -/
def Obligations.WriteOnACompleteChain : Prop :=
  ∀ (cls : DevClass) (cmd : Word) (data : Bytes) (s : State) (rx : Bytes) (rest : List Answer),
    s.chain.status = .complete → data.length = 6 * s.cfg.deviceCount → s.answers = .bytes rx :: rest →
    rx.length = 4 + 8 * s.cfg.deviceCount →
    exec (.write cls cmd data) s = .next { s with
      chain := { s.chain with
        ctr := { cell := if cls = .pack then s.chain.ctr.cell else inc s.chain.ctr.cell
                 pack := if cls = .cell then s.chain.ctr.pack else inc s.chain.ctr.pack }
        currentPort := if s.chain.currentPort = .A then .B else .A }
      cs := s.cs.set s.chain.currentPort .deasserted
      answers := rest
      trace := s.trace ++
        exchangeEvents s.chain.currentPort
          (buildWriteFrame s.cfg cmd data s.chain.currentPort s.cfg.deviceCount s.cfg.deviceCount) (.bytes rx) ++
        [.response ⟨0, 0, 0, 0, [], 0⟩]
      ctl := { s.ctl with busy := false, phase := .idle, iter := .first, expSnap := s.chain.ctr } }

/-- READ in `Complete` whose `n` slots all pass: one exchange on `currentPort`; the data is the payload of every device
in logical order, device `i` from slot `i` on port B and slot `n - 1 - i` on port A; the covered counters are incremented
and `currentPort` is flipped (R269, R258, R259, R175, R180). A slot is counter-checked only if its device's class is
covered. After the response `iter` and `expSnap` hold what R255 latched, which is the model's choice (log entry 18). -/
def Obligations.ReadOnACompleteChain : Prop :=
  ∀ (cls : DevClass) (cmd : Word) (s : State) (rx : Bytes) (rest : List Answer),
    let n := s.cfg.deviceCount
    let P := s.chain.currentPort
    s.chain.status = .complete → s.answers = .bytes rx :: rest → rx.length = 4 + 8 * n →
    (∀ j < n, slotStatus s.cfg (slotPayload rx j) (slotPec rx j)
      (expected s.cfg cls s.chain.ctr (devOf P j n)) = .success) →
    exec (.read cls cmd) s = .next { s with
      chain := { s.chain with
        ctr := { cell := if cls = .pack then s.chain.ctr.cell else inc s.chain.ctr.cell
                 pack := if cls = .cell then s.chain.ctr.pack else inc s.chain.ctr.pack }
        currentPort := if P = .A then .B else .A }
      cs := s.cs.set P .deasserted
      answers := rest
      trace := s.trace ++ exchangeEvents P (buildReadTx s.cfg cmd n) (.bytes rx) ++
        [.response ⟨0, 0, 0, 0,
          (List.range n).flatMap (fun i => (rx.drop (4 + 8 * (if P = .B then i else n - 1 - i))).take 6), 0⟩]
      ctl := { s.ctl with busy := false, phase := .idle, iter := .first, expSnap := s.chain.ctr } }

/-- READ whose worst slot is a counter fault. In `Complete`: the covered counters are zeroed, `CMD_RSTCC` is broadcast on
`currentPort`, the fault is returned without data, and nothing else of ChainInfo changes; where the broadcast fails the
response is `SpiError` and the zeroing stays. On a broken chain, where the worse of the two ports' frames decides: the
tally too is zeroed, and `CMD_RSTCC` is broadcast on each port that reaches a device, port A first, up to the first
failure (R258, R260, R261, R253, R254, R304, R305). -/
def Obligations.CounterFaultResetsTheCounters : Prop :=
  (∀ (cls : DevClass) (cmd : Word) (s : State) (rx : Bytes) (a : Answer) (rest : List Answer),
    let n := s.cfg.deviceCount
    let P := s.chain.currentPort
    let fault := frameStatus s.cfg rx P n n (expected s.cfg cls s.chain.ctr)
    s.chain.status = .complete → s.answers = .bytes rx :: a :: rest → rx.length = 4 + 8 * n →
    (fault = .porError ∨ fault = .commandCounterError) →
    ∃ t : State, exec (.read cls cmd) s = .next t ∧
      t.chain = { s.chain with ctr :=
        { cell := if cls = .pack then s.chain.ctr.cell else 0
          pack := if cls = .cell then s.chain.ctr.pack else 0 } } ∧
      t.trace = s.trace ++ exchangeEvents P (buildReadTx s.cfg cmd n) (.bytes rx) ++
        exchangeEvents P (buildCommandFrame s.cfg s.cfg.cmdRstcc) a ++
        [.response ⟨if (replyOf (buildCommandFrame s.cfg s.cfg.cmdRstcc) a).isSome then fault.code else 2,
          0, 0, 0, [], 0⟩] ∧
      t.answers = rest ∧ t.cfg = s.cfg ∧ t.host = s.host) ∧
  (∀ (cls : DevClass) (cmd : Word) (s : State) (rA rB : Bytes) (more : List Answer),
    let n := s.cfg.deviceCount
    let a := s.chain.availA
    let b := s.chain.availB
    let exp := expected s.cfg cls s.chain.ctr
    let fault := worse (frameStatus s.cfg rA .A n a exp) (frameStatus s.cfg rB .B n b exp)
    let ports := (if 0 < a then [Port.A] else []) ++ (if 0 < b then [Port.B] else [])
    let frame := buildCommandFrame s.cfg s.cfg.cmdRstcc
    let broadcasts := fun replies : List Bytes =>
      (List.zipWith (fun P rx => exchangeEvents P frame (.bytes rx)) ports replies).flatten
    let reads := (if 0 < a then exchangeEvents .A (buildReadTx s.cfg cmd a) (.bytes rA) else []) ++
      (if 0 < b then exchangeEvents .B (buildReadTx s.cfg cmd b) (.bytes rB) else [])
    s.chain.status ≠ .complete →
    s.answers = (if 0 < a then [.bytes rA] else []) ++ (if 0 < b then [.bytes rB] else []) ++ more →
    (0 < a → rA.length = 4 + 8 * a) → (0 < b → rB.length = 4 + 8 * b) →
    (fault = .porError ∨ fault = .commandCounterError) →
    ∃ t : State, exec (.read cls cmd) s = .next t ∧
      t.chain = { s.chain with
        ctr := { cell := if cls = .pack then s.chain.ctr.cell else 0
                 pack := if cls = .cell then s.chain.ctr.pack else 0 }
        tally := 0 } ∧
      t.cfg = s.cfg ∧ t.host = s.host ∧
      (∀ (replies : List Bytes) (rest : List Answer), replies.length = ports.length →
        (∀ rx ∈ replies, rx.length = 4) → more = replies.map Answer.bytes ++ rest →
        t.trace = s.trace ++ reads ++ broadcasts replies ++ [.response ⟨fault.code, 0, 0, 0, [], 0⟩] ∧
        t.answers = rest) ∧
      (∀ (replies : List Bytes) (x : Answer) (rest : List Answer), replies.length < ports.length →
        (∀ rx ∈ replies, rx.length = 4) → replyOf frame x = none → more = replies.map Answer.bytes ++ x :: rest →
        t.trace = s.trace ++ reads ++ broadcasts replies ++
          exchangeEvents (ports.getD replies.length .A) frame x ++ [.response ⟨2, 0, 0, 0, [], 0⟩] ∧
        t.answers = rest))

/-- COMMAND, WRITE or READ in `Complete` whose one exchange fails, by a transport failure or by an answer of any other
length than the transmit buffer's: `SpiError`, no retry, and no ChainInfo register changes (R258, R273, R67, R70). -/
def Obligations.SpiErrorOnACompleteChainChangesNothing : Prop :=
  ∀ (i : Instr) (s : State) (a : Answer) (rest : List Answer), i.wf s.cfg = true →
    (∃ cls cmd data, i = .command cls cmd ∨ i = .write cls cmd data ∨ i = .read cls cmd) →
    let tx := match i with
      | .command _ cmd => buildCommandFrame s.cfg cmd
      | .write _ cmd data => buildWriteFrame s.cfg cmd data s.chain.currentPort s.cfg.deviceCount s.cfg.deviceCount
      | .read _ cmd => buildReadTx s.cfg cmd s.cfg.deviceCount
      | _ => []
    s.chain.status = .complete → s.answers = a :: rest →
    (a = .transportError ∨ ∃ rx, a = .bytes rx ∧ rx.length ≠ tx.length) →
    ∃ t, exec i s = .next t ∧ t.chain = s.chain ∧ t.answers = rest ∧ t.cfg = s.cfg ∧ t.host = s.host ∧
      t.trace = s.trace ++ exchangeEvents s.chain.currentPort tx a ++ [.response ⟨2, 0, 0, 0, [], 0⟩]

/-! ## Transactor: the broken chain -/

/-- COMMAND in `SingleBreak` below the tally limit: the command frame on port A, then on port B, each only if it reaches
a device; the covered counters are incremented once, the tally by 1, `currentPort` stays (R260, R262, R267). -/
def Obligations.CommandOnASingleBreak : Prop :=
  ∀ (cls : DevClass) (cmd : Word) (s : State) (replies : List Bytes) (rest : List Answer),
    let ports := (if 0 < s.chain.availA then [Port.A] else []) ++ (if 0 < s.chain.availB then [Port.B] else [])
    s.chain.status = .singleBreak → s.chain.tally + 1 ≠ s.cfg.dualPortLimit →
    replies.length = ports.length → (∀ rx ∈ replies, rx.length = 4) → s.answers = replies.map Answer.bytes ++ rest →
    ∃ t : State, exec (.command cls cmd) s = .next t ∧
      t.chain = { s.chain with
        ctr := { cell := if cls = .pack then s.chain.ctr.cell else inc s.chain.ctr.cell
                 pack := if cls = .cell then s.chain.ctr.pack else inc s.chain.ctr.pack }
        tally := s.chain.tally + 1 } ∧
      t.trace = s.trace ++
        (List.zipWith (fun P rx => exchangeEvents P (buildCommandFrame s.cfg cmd) (.bytes rx)) ports replies).flatten ++
        [.response ⟨0, 0, 0, 0, [], 0⟩] ∧
      t.answers = rest ∧ t.cfg = s.cfg ∧ t.host = s.host

/-- WRITE in `SingleBreak` below the tally limit: port A's frame carries the `avail[A]` devices nearest A, port B's the
`avail[B]` nearest B, a port that reaches no device is skipped; counters and tally as for COMMAND (R260, R262, R268,
R166). The only premise on reachability is that `status` and `avail` agree (R37). -/
def Obligations.WriteOnASingleBreak : Prop :=
  ∀ (cls : DevClass) (cmd : Word) (data : Bytes) (s : State) (rA rB : Bytes) (rest : List Answer),
    let n := s.cfg.deviceCount
    let a := s.chain.availA
    let b := s.chain.availB
    s.chain.statusFits n → s.chain.status = .singleBreak → s.chain.tally + 1 ≠ s.cfg.dualPortLimit → data.length = 6 * n →
    s.answers = (if 0 < a then [.bytes rA] else []) ++ (if 0 < b then [.bytes rB] else []) ++ rest →
    rA.length = 4 + 8 * a → rB.length = 4 + 8 * b →
    ∃ t : State, exec (.write cls cmd data) s = .next t ∧
      t.chain = { s.chain with
        ctr := { cell := if cls = .pack then s.chain.ctr.cell else inc s.chain.ctr.cell
                 pack := if cls = .cell then s.chain.ctr.pack else inc s.chain.ctr.pack }
        tally := s.chain.tally + 1 } ∧
      t.trace = s.trace ++
        (if 0 < a then exchangeEvents .A (buildWriteFrame s.cfg cmd data .A n a) (.bytes rA) else []) ++
        (if 0 < b then exchangeEvents .B (buildWriteFrame s.cfg cmd data .B n b) (.bytes rB) else []) ++
        [.response ⟨0, 0, 0, 0, [], 0⟩] ∧
      t.answers = rest ∧ t.cfg = s.cfg ∧ t.host = s.host

/-- READ in `SingleBreak` below the tally limit with every slot passing: device `i` comes from slot `i` of port B's answer
if `i < avail[B]`, and otherwise from slot `n - 1 - i` of port A's; a port that reaches no device is skipped (R260,
R262, R265, R269). The only premise on reachability is that `status` and `avail` agree (R37). -/
def Obligations.ReadOnASingleBreakMergesBothPorts : Prop :=
  ∀ (cls : DevClass) (cmd : Word) (s : State) (rA rB : Bytes) (rest : List Answer),
    let n := s.cfg.deviceCount
    let a := s.chain.availA
    let b := s.chain.availB
    s.chain.statusFits n → s.chain.status = .singleBreak → s.chain.tally + 1 ≠ s.cfg.dualPortLimit →
    s.answers = (if 0 < a then [.bytes rA] else []) ++ (if 0 < b then [.bytes rB] else []) ++ rest →
    rA.length = 4 + 8 * a → rB.length = 4 + 8 * b →
    frameStatus s.cfg rA .A n a (expected s.cfg cls s.chain.ctr) = .success →
    frameStatus s.cfg rB .B n b (expected s.cfg cls s.chain.ctr) = .success →
    ∃ t : State, exec (.read cls cmd) s = .next t ∧
      t.chain = { s.chain with
        ctr := { cell := if cls = .pack then s.chain.ctr.cell else inc s.chain.ctr.cell
                 pack := if cls = .cell then s.chain.ctr.pack else inc s.chain.ctr.pack }
        tally := s.chain.tally + 1 } ∧
      t.trace = s.trace ++
        (if 0 < a then exchangeEvents .A (buildReadTx s.cfg cmd a) (.bytes rA) else []) ++
        (if 0 < b then exchangeEvents .B (buildReadTx s.cfg cmd b) (.bytes rB) else []) ++
        [.response ⟨0, 0, 0, 0,
          (List.range n).flatMap (fun i =>
            if i < b then (rB.drop (4 + 8 * i)).take 6 else (rA.drop (4 + 8 * (n - 1 - i))).take 6), 0⟩] ∧
      t.answers = rest ∧ t.cfg = s.cfg ∧ t.host = s.host

/-- The success of a COMMAND, WRITE or READ that reaches the tally limit, over both ports or over the one that reaches a
device, triggers a probe, whose result is committed; the tally is 0. With no counter fault in the probe the response
stays `Success`, with a READ's merged data, even if the chain status changed; with a counter fault both counters are
zeroed and the response is the fault or `SpiError`, without data (R262, R228, R253): this statement leaves open which of
the two, and FailedExchangeEndsTheRequest says that it is `SpiError` exactly where an exchange fails. -/
def Obligations.TallyLimitTriggersAProbe : Prop :=
  ∀ (i : Instr) (cls : DevClass) (cmd : Word) (data : Bytes) (s : State) (rA rB : Bytes) (a b : Nat)
    (sa sb : List Bytes) (rest : List Answer),
    let n := s.cfg.deviceCount
    let dA := s.chain.availA
    let dB := s.chain.availB
    let isRead := i = .read cls cmd
    let frameLength := fun k : Nat => if i = .command cls cmd then 4 else 4 + 8 * k
    let exp := expected s.cfg .shared (incCounters cls s.chain.ctr)
    let pf := scriptFault s.cfg .B exp b sb (scriptFault s.cfg .A exp a sa .success)
    (i = .command cls cmd ∨ i = .write cls cmd data ∨ isRead) → i.wf s.cfg = true →
    s.chain.statusFits n → s.chain.status = .singleBreak → s.chain.tally + 1 = s.cfg.dualPortLimit →
    s.answers = (if 0 < dA then [.bytes rA] else []) ++ (if 0 < dB then [.bytes rB] else []) ++
      ((sa ++ sb).map Answer.bytes ++ rest) →
    (0 < dA → rA.length = frameLength dA) → (0 < dB → rB.length = frameLength dB) →
    (isRead → frameStatus s.cfg rA .A n dA (expected s.cfg cls s.chain.ctr) = .success ∧
      frameStatus s.cfg rB .B n dB (expected s.cfg cls s.chain.ctr) = .success) →
    ScanScript s.cfg a sa → ScanScript s.cfg b sb →
    ∃ (t : State) (evs : List Event) (r : Response), exec i s = .next t ∧ Answered s t evs r ∧
      (pf = .success →
        r = ⟨0, 0, 0, 0, if i = .read cls cmd then (List.range n).flatMap (fun j =>
          if j < dB then (rB.drop (4 + 8 * j)).take 6 else (rA.drop (4 + 8 * (n - 1 - j))).take 6) else [], 0⟩ ∧
        xferCount evs = (if 0 < dA then 1 else 0) + (if 0 < dB then 1 else 0) + sa.length + sb.length ∧
        t.chain = { s.chain with
          ctr := incCounters cls s.chain.ctr
          tally := 0
          status := classify a b n
          availA := a
          availB := b } ∧
        t.answers = rest) ∧
      (pf = .porError ∨ pf = .commandCounterError →
        (r = ⟨pf.code, 0, 0, 0, [], 0⟩ ∨ r = ⟨2, 0, 0, 0, [], 0⟩) ∧
        t.chain = { s.chain with
          ctr := { cell := 0, pack := 0 }
          tally := 0
          status := classify a b n
          availA := a
          availB := b })

/-- READ in `Complete` whose frame is a chain break, where the re-probe finds `MultipleBreak` and no counter fault:
`ChainBreakError` without a retry; the probe's result is committed, no counter changes (R258, R264, R303). -/
def Obligations.BrokenReadIsReprobed : Prop :=
  ∀ (cls : DevClass) (cmd : Word) (s : State) (rx : Bytes) (a b : Nat) (sa sb : List Bytes) (rest : List Answer),
    let n := s.cfg.deviceCount
    let exp := expected s.cfg .shared s.chain.ctr
    s.chain.status = .complete → rx.length = 4 + 8 * n →
    frameStatus s.cfg rx s.chain.currentPort n n (expected s.cfg cls s.chain.ctr) = .chainBreakError →
    ScanScript s.cfg a sa → ScanScript s.cfg b sb → classify a b n = .multipleBreak →
    s.answers = .bytes rx :: ((sa ++ sb).map Answer.bytes ++ rest) →
    scriptFault s.cfg .B exp b sb (scriptFault s.cfg .A exp a sa .success) = .success →
    ∃ (t : State) (evs : List Event), exec (.read cls cmd) s = .next t ∧
      Answered s t evs ⟨1, 0, 0, 0, [], 0⟩ ∧ xferCount evs = 1 + sa.length + sb.length ∧
      t.chain = { s.chain with status := .multipleBreak, availA := a, availB := b, tally := 0 } ∧
      t.answers = rest

/-- A COMMAND in `MultipleBreak`, both ports reaching a device, whose re-probe finds the chain `Complete` and no counter
fault, is sent again, once, over the whole chain, and then succeeds; its counters are incremented once, not once per exchange (R257, R263, R264, R69, R252). -/
def Obligations.HealedCommandIsRetriedOnce : Prop :=
  ∀ (cls : DevClass) (cmd : Word) (s : State) (rA rB rx : Bytes) (sa sb : List Bytes) (rest : List Answer),
    let n := s.cfg.deviceCount
    let exp := expected s.cfg .shared s.chain.ctr
    let frame := buildCommandFrame s.cfg cmd
    s.chain.status = .multipleBreak → 0 < s.chain.availA → 0 < s.chain.availB →
    rA.length = 4 → rB.length = 4 → rx.length = 4 →
    ScanScript s.cfg n sa → ScanScript s.cfg n sb →
    s.answers = .bytes rA :: .bytes rB :: ((sa ++ sb).map Answer.bytes ++ .bytes rx :: rest) →
    scriptFault s.cfg .B exp n sb (scriptFault s.cfg .A exp n sa .success) = .success →
    ∃ (t : State) (probeEvs : List Event), exec (.command cls cmd) s = .next t ∧
      t.trace = s.trace ++ exchangeEvents .A frame (.bytes rA) ++ exchangeEvents .B frame (.bytes rB) ++ probeEvs ++
        exchangeEvents s.chain.currentPort frame (.bytes rx) ++ [.response ⟨0, 0, 0, 0, [], 0⟩] ∧
      xferCount probeEvs = 2 * n ∧
      t.chain = { s.chain with
        status := .complete
        availA := n
        availB := n
        tally := 0
        ctr := { cell := if cls = .pack then s.chain.ctr.cell else inc s.chain.ctr.cell
                 pack := if cls = .cell then s.chain.ctr.pack else inc s.chain.ctr.pack } } ∧
      t.answers = rest

/-- A COMMAND, WRITE or READ accepted in `MultipleBreak` never succeeds while the chain stays so: `Success` means that a
re-probe found another chain status (R263). The tally limit is above 1, as the spec's 100 is. -/
def Obligations.MultipleBreakSucceedsOnlyHealed : Prop :=
  ∀ (i : Instr) (s t : State) (evs : List Event) (r : Response),
    (∃ cls cmd data, i = .command cls cmd ∨ i = .write cls cmd data ∨ i = .read cls cmd) →
    s.chain.status = .multipleBreak → 1 < s.cfg.dualPortLimit → exec i s = .next t → Answered s t evs r →
    r.status = 0#3 → t.chain.status ≠ .multipleBreak

/-! ## Rules of the whole machine -/

/-- A COMMAND, WRITE or READ makes at most `2 * (2 + 2n) + 2 + 2` exchanges, whatever the transport answers (R274). -/
def Obligations.ExchangesAreBounded : Prop :=
  ∀ (i : Instr) (s t : State) (evs : List Event) (r : Response),
    (∃ cls cmd data, i = .command cls cmd ∨ i = .write cls cmd data ∨ i = .read cls cmd) →
    exec i s = .next t → Answered s t evs r → xferCount evs ≤ 2 * (2 + 2 * s.cfg.deviceCount) + 2 + 2

/-- Only a probe changes `status` or `avail`: an instruction other than INIT that changes one of them is a COMMAND, WRITE,
READ or PROBE, and among its events are the probe's 1-slot frames on both ports (R35, R220, R266). -/
def Obligations.ChainStatusChangesOnlyByProbe : Prop :=
  ∀ (i : Instr) (s t : State) (evs : List Event) (r : Response), 1 ≤ s.cfg.deviceCount → i ≠ .init →
    exec i s = .next t → Answered s t evs r →
    (t.chain.status ≠ s.chain.status ∨ t.chain.availA ≠ s.chain.availA ∨ t.chain.availB ≠ s.chain.availB) →
    (i = .probe ∨ ∃ cls cmd data, i = .command cls cmd ∨ i = .write cls cmd data ∨ i = .read cls cmd) ∧
    ∀ P : Port, ∃ a pre post,
      evs = pre ++ exchangeEvents P (buildReadTx s.cfg s.cfg.cmdRdsid 1) a ++ post

/-- `currentPort` changes only by INIT, or by a READ or WRITE that answers `Success` on a chain that is then `Complete`;
a COMMAND never flips it, nor does a failed request (R38, R349, R258). -/
def Obligations.CurrentPortFlipsOnlyOnFullChainSuccess : Prop :=
  ∀ (i : Instr) (s t : State) (evs : List Event) (r : Response), exec i s = .next t → Answered s t evs r →
    t.chain.currentPort ≠ s.chain.currentPort →
    i = .init ∨
    ((∃ cls cmd data, i = .write cls cmd data ∨ i = .read cls cmd) ∧ r.status = 0#3 ∧ t.chain.status = .complete)

/-- The command counters and the tally after a COMMAND, WRITE or READ: on `Success` each covered counter is incremented
exactly once, however many exchanges were made, and the others stay; on any other status each counter is as before,
incremented once, or 0; and a request accepted in `SingleBreak` that fails, with any status, leaves the tally 0, since a
failed dual-port attempt ends the run of consecutive successes (R252, R253, R261, R262, R41; for `SpiError` log entry 19,
DEDUCED). -/
def Obligations.CountersAfterAnOperation : Prop :=
  ∀ (i : Instr) (cls : DevClass) (s t : State) (evs : List Event) (r : Response), i.wf s.cfg = true →
    (∃ cmd data, i = .command cls cmd ∨ i = .write cls cmd data ∨ i = .read cls cmd) →
    exec i s = .next t → Answered s t evs r →
    (r.status = 0#3 → ∀ c : CtrClass,
      t.chain.ctr.get c = if c ∈ covered cls then inc (s.chain.ctr.get c) else s.chain.ctr.get c) ∧
    (r.status ≠ 0#3 → ∀ c : CtrClass,
      t.chain.ctr.get c = s.chain.ctr.get c ∨ t.chain.ctr.get c = 0 ∨
        (c ∈ covered cls ∧ t.chain.ctr.get c = inc (s.chain.ctr.get c))) ∧
    (s.chain.status = .singleBreak → r.status ≠ 0#3 → t.chain.tally = 0)

/-- What a response can carry: data and a value only with `Success` (R309), `chainStatus` and `avail` only from STATUS
and PROBE (R92), and never the status codes 5 and 6 nor the chain-status code 3 (R103, R104, R105). -/
def Obligations.ResponseFields : Prop :=
  ∀ (i : Instr) (s t : State) (evs : List Event) (r : Response), exec i s = .next t → Answered s t evs r →
    (r.status ≠ 0#3 → r.data = [] ∧ r.value = 0) ∧
    (i ≠ .status → i ≠ .probe → r.chainStatus = 0 ∧ r.availA = 0 ∧ r.availB = 0) ∧
    r.status ≠ 5#3 ∧ r.status ≠ 6#3 ∧ r.chainStatus ≠ 3#2

/-- The answers of COMMAND and WRITE are not inspected: on a `Complete` or `SingleBreak` chain below the tally limit, two
states that differ only in the bytes of the answers, not in their lengths, end with the same registers and the same
response (R259). -/
def Obligations.CommandAndWriteIgnoreAnswerBytes : Prop :=
  ∀ (i : Instr) (s : State) (as bs : List Answer) (t u : State),
    (∃ cls cmd data, i = .command cls cmd ∨ i = .write cls cmd data) →
    s.chain.status ≠ .multipleBreak → s.chain.tally + 1 ≠ s.cfg.dualPortLimit →
    2 ≤ as.length →
    List.Forall₂ (fun a b => a = b ∨ ∃ x y : Bytes, a = .bytes x ∧ b = .bytes y ∧ x.length = y.length) as bs →
    exec i { s with answers := as } = .next t → exec i { s with answers := bs } = .next u →
    t.chain = u.chain ∧ t.trace.getLast? = u.trace.getLast?

end
end

