-- ==== Sys2Proof/Laws/Crc.lean ====
section
/-! SUPPORT. The CRC register as one fold over bits (40_crc.md). -/

namespace Sys2Proof.Machine

@[simp] theorem crcBits_nil {w : Nat} (poly r : BitVec w) : crcBits poly r [] = r := rfl

@[simp] theorem crcBits_cons {w : Nat} (poly r : BitVec w) (b : Bool) (bits : List Bool) :
    crcBits poly r (b :: bits) = crcBits poly (crcShift poly r b) bits := rfl

theorem crcBits_append {w : Nat} (poly r : BitVec w) (xs ys : List Bool) :
    crcBits poly r (xs ++ ys) = crcBits poly (crcBits poly r xs) ys := by
  simp [crcBits]

@[simp] theorem msbFirst_length {w : Nat} (v : BitVec w) : (msbFirst v).length = w := by
  simp [msbFirst]

/-- Folding bytes is folding their bits. -/
theorem crcBytes_eq_crcBits {w : Nat} (poly r : BitVec w) (bs : Bytes) :
    crcBytes poly r bs = crcBits poly r (bs.flatMap msbFirst) := by
  induction bs generalizing r with
  | nil => rfl
  | cons b bs ih =>
    rw [List.flatMap_cons, crcBits_append, ← ih]
    rfl

/-- The data CRC is one fold over the data bits and then the counter bits (spec R138, R139). -/
theorem dataCrc_eq_crcBits (c : Params) (bs : Bytes) (ctr : BitVec 6) :
    dataCrc c bs ctr = crcBits (crc10Low c) c.crc10Seed (bs.flatMap msbFirst ++ msbFirst ctr) := by
  rw [crcBits_append, ← crcBytes_eq_crcBits]
  rfl

end Sys2Proof.Machine
end

