-- ==== Sys2Proof/Laws/Framing.lean ====
section
/-! SUPPORT. Frame lengths, slots and the order of statuses (41_framing.md, 60_exceptions.md R307). -/

namespace Sys2Proof.Machine

/-! ## Lengths (spec R117) -/

@[simp] theorem wireWord_length (w : Word) : (wireWord w).length = 2 := rfl

@[simp] theorem buildCommandFrame_length (c : Params) (cmd : Word) : (buildCommandFrame c cmd).length = 4 := rfl

@[simp] theorem registerFrame_length (c : Params) (pay : Bytes) (ctr : BitVec 6) :
    (registerFrame c pay ctr).length = pay.length + 2 := by
  simp [registerFrame]

@[simp] theorem buildReadTx_length (c : Params) (cmd : Word) (k : Nat) : (buildReadTx c cmd k).length = 4 + 8 * k := by
  simp [buildReadTx]

/-- A device's payload is 6 bytes where the data reaches it. -/
theorem payloadAt_length {data : Bytes} {i n : Nat} (hd : data.length = 6 * n) (hi : i < n) :
    (payloadAt data i).length = 6 := by
  simp [payloadAt]
  omega

theorem devOf_lt {P : Port} {j n : Nat} (h : j < n) : devOf P j n < n := by
  cases P <;> simp [devOf] <;> omega

@[simp] theorem devOf_devOf {P : Port} {j n : Nat} (h : j < n) : devOf P (devOf P j n) n = j := by
  cases P <;> simp [devOf]; omega

/-- A list of pieces of one length. -/
theorem flatMap_length_const {α β : Type} (f : α → List β) (m : Nat) (l : List α) (h : ∀ x ∈ l, (f x).length = m) :
    (l.flatMap f).length = m * l.length := by
  induction l with
  | nil => simp
  | cons x l ih =>
    rw [List.flatMap_cons, List.length_append, h x (by simp), ih fun y hy => h y (by simp [hy]), List.length_cons]
    rw [Nat.mul_succ, Nat.add_comm]

/-- The piece `j` of a list of pieces of one length. -/
theorem flatMap_piece {α β : Type} (f : α → List β) (m : Nat) (l : List α) (h : ∀ x ∈ l, (f x).length = m) (j : Nat)
    (hj : j < l.length) : ((l.flatMap f).drop (m * j)).take m = f l[j] := by
  induction l generalizing j with
  | nil => simp at hj
  | cons x l ih =>
    have hx := h x (by simp)
    cases j with
    | zero => simp [hx]
    | succ j =>
      have hj' : j < l.length := by simpa using hj
      rw [List.flatMap_cons, Nat.mul_succ, Nat.add_comm, ← List.drop_drop, ← hx, List.drop_left, hx,
        ih (fun y hy => h y (by simp [hy])) j hj']
      rfl

theorem writeSlots_length {c : Params} {data : Bytes} {P : Port} {n k : Nat} (hd : data.length = 6 * n) (hk : k ≤ n) :
    ∀ s ∈ List.range k, (registerFrame c (payloadAt data (devOf P s n)) 0#6).length = 8 := by
  intro s hs
  have hs' : s < k := List.mem_range.mp hs
  rw [registerFrame_length, payloadAt_length hd (devOf_lt (by omega))]

theorem buildWriteFrame_length {c : Params} {cmd : Word} {data : Bytes} {P : Port} {n k : Nat}
    (hd : data.length = 6 * n) (hk : k ≤ n) : (buildWriteFrame c cmd data P n k).length = 4 + 8 * k := by
  rw [buildWriteFrame, List.length_append, flatMap_length_const _ 8 _ (writeSlots_length hd hk)]
  simp

/-- Slot `j` of a write frame (spec R162, R166). -/
theorem buildWriteFrame_slot {c : Params} {cmd : Word} {data : Bytes} {P : Port} {n k j : Nat}
    (hd : data.length = 6 * n) (hk : k ≤ n) (hj : j < k) :
    ((buildWriteFrame c cmd data P n k).drop (slotOffset j)).take 8 =
      registerFrame c (payloadAt data (devOf P j n)) 0#6 := by
  rw [buildWriteFrame, slotOffset, ← List.drop_drop, List.drop_left' (by simp),
    flatMap_piece _ 8 _ (writeSlots_length hd hk) j (by simpa using hj)]
  simp

/-! ## The PEC word (spec R112) -/

@[simp] theorem pecCounter_append (ctr : BitVec 6) (crc : BitVec 10) : pecCounter (ctr ++ crc) = ctr := by
  unfold pecCounter
  rw [BitVec.extractLsb'_append_eq_of_le (by decide)]
  simp

@[simp] theorem pecCrc_append (ctr : BitVec 6) (crc : BitVec 10) : pecCrc (ctr ++ crc) = crc := by
  unfold pecCrc
  rw [BitVec.extractLsb'_append_eq_of_add_le (by decide)]
  simp

/-- The two bytes of a wire word make the word (spec R63). -/
theorem hiByte_append_loByte (w : Word) : hiByte w ++ loByte w = w := by
  unfold hiByte loByte
  rw [BitVec.extractLsb'_append_extractLsb'_eq_extractLsb' (by decide)]
  exact BitVec.extractLsb'_eq_self

/-! ## The order of statuses (spec R307) -/

@[simp] theorem success_worse (x : TxStatus) : worse .success x = x := by cases x <;> rfl
@[simp] theorem worse_success (x : TxStatus) : worse x .success = x := by cases x <;> rfl

theorem worse_comm (x y : TxStatus) : worse x y = worse y x := by cases x <;> cases y <;> rfl
theorem worse_assoc (x y z : TxStatus) : worse (worse x y) z = worse x (worse y z) := by
  cases x <;> cases y <;> cases z <;> rfl

theorem rank_worse (x y : TxStatus) : (worse x y).rank = max x.rank y.rank := by
  cases x <;> cases y <;> rfl

theorem rank_injective {x y : TxStatus} (h : x.rank = y.rank) : x = y := by
  cases x <;> cases y <;> simp_all [TxStatus.rank]

theorem worse_eq_success {x y : TxStatus} : worse x y = .success ↔ x = .success ∧ y = .success := by
  cases x <;> cases y <;> simp [worse, TxStatus.rank]

/-- The worst of the statuses of a list of slots, and a start. -/
theorem foldl_worse_rank (f : Nat → TxStatus) (l : List Nat) (x : TxStatus) :
    x.rank ≤ (l.foldl (fun acc j => worse acc (f j)) x).rank ∧
      ∀ j ∈ l, (f j).rank ≤ (l.foldl (fun acc j => worse acc (f j)) x).rank := by
  induction l generalizing x with
  | nil => simp
  | cons i l ih =>
    obtain ⟨h1, h2⟩ := ih (worse x (f i))
    rw [rank_worse] at h1
    refine ⟨by simp only [List.foldl_cons]; omega, ?_⟩
    intro j hj
    rcases List.mem_cons.mp hj with rfl | hj
    · simp only [List.foldl_cons]; omega
    · exact h2 j hj

theorem foldl_worse_mem (f : Nat → TxStatus) (l : List Nat) (x : TxStatus) :
    l.foldl (fun acc j => worse acc (f j)) x = x ∨ ∃ j ∈ l, l.foldl (fun acc j => worse acc (f j)) x = f j := by
  induction l generalizing x with
  | nil => simp
  | cons i l ih =>
    simp only [List.foldl_cons]
    rcases ih (worse x (f i)) with h | ⟨j, hj, h⟩
    · rw [h]
      unfold worse
      split
      · exact .inl rfl
      · exact .inr ⟨i, by simp, rfl⟩
    · exact .inr ⟨j, by simp [hj], h⟩

theorem foldl_worse_success (f : Nat → TxStatus) (l : List Nat) (x : TxStatus) :
    l.foldl (fun acc j => worse acc (f j)) x = .success ↔ x = .success ∧ ∀ j ∈ l, f j = .success := by
  induction l generalizing x with
  | nil => simp
  | cons i l ih => simp [ih, worse_eq_success, and_assoc]

/-- A frame is a `Success` exactly if every slot is. -/
theorem frameStatus_success {c : Params} {rx : Bytes} {P : Port} {n k : Nat} {exp : Nat → Option (BitVec 6)} :
    frameStatus c rx P n k exp = .success ↔ ∀ j < k, slotResult c rx P n exp j = .success := by
  rw [frameStatus, foldl_worse_success]
  simp

/-! ## Parsed data (spec R175, R191) -/

/-- The payload of device `i`, if the `k` slots of the frame reach it. -/
theorem frameData_at {rx : Bytes} {P : Port} {n k i : Nat} (hi : i < n) (hs : slotOf P i n < k) (hk : k ≤ n) :
    (frameData rx P n k).at i = slotPayload rx (slotOf P i n) := by
  have key : ∀ (m : Nat), m ≤ n → slotOf P i n < m →
      ((List.range m).map fun s => (devOf P s n, slotPayload rx s)).lookup i =
        some (slotPayload rx (slotOf P i n)) := by
    intro m
    induction m with
    | zero => intro _ h; omega
    | succ m ih =>
      intro hm hlt
      rw [List.range_succ, List.map_append, List.lookup_append]
      by_cases h : slotOf P i n < m
      · rw [ih (by omega) h]; rfl
      · have hsm : slotOf P i n = m := by omega
        have hnone : ((List.range m).map fun s => (devOf P s n, slotPayload rx s)).lookup i = none := by
          rw [List.lookup_eq_none_iff]
          intro p hp
          obtain ⟨j, hj, rfl⟩ := List.mem_map.mp hp
          have hj' : j < m := List.mem_range.mp hj
          cases P <;> simp [devOf, slotOf] at hsm ⊢ <;> omega
        have hdev : devOf P m n = i := by
          cases P <;> simp [devOf, slotOf] at hsm ⊢ <;> omega
        rw [hnone]
        simp [hdev, hsm]
  unfold FrameData.at frameData
  rw [key k hk hs]
  rfl

end Sys2Proof.Machine
end

