-- ==== Sys2Proof/Laws/State.lean ====
section
/-! SUPPORT. One lemma per field per update: what each named operation of Machine/Ops.lean and Machine/Topology.lean
does to each field of the state. With them no proof unfolds a record update. -/

namespace Sys2Proof.Machine

/-! ### `State.accept` -/

@[simp] theorem accept_cfg (s : State) (r : Request) (rest : List Request) : (s.accept r rest).cfg = s.cfg := rfl
@[simp] theorem accept_chain (s : State) (r : Request) (rest : List Request) : (s.accept r rest).chain = s.chain := rfl
@[simp] theorem accept_ctl_busy (s : State) (r : Request) (rest : List Request) : (s.accept r rest).ctl.busy = true := rfl
@[simp] theorem accept_ctl_req (s : State) (r : Request) (rest : List Request) : (s.accept r rest).ctl.req = r := rfl
@[simp] theorem accept_ctl_iter (s : State) (r : Request) (rest : List Request) : (s.accept r rest).ctl.iter = s.ctl.iter := rfl
@[simp] theorem accept_ctl_phase (s : State) (r : Request) (rest : List Request) : (s.accept r rest).ctl.phase = s.ctl.phase := rfl
@[simp] theorem accept_ctl_probe (s : State) (r : Request) (rest : List Request) : (s.accept r rest).ctl.probe = s.ctl.probe := rfl
@[simp] theorem accept_ctl_expSnap (s : State) (r : Request) (rest : List Request) : (s.accept r rest).ctl.expSnap = s.ctl.expSnap := rfl
@[simp] theorem accept_cs (s : State) (r : Request) (rest : List Request) : (s.accept r rest).cs = s.cs := rfl
@[simp] theorem accept_host (s : State) (r : Request) (rest : List Request) : (s.accept r rest).host = rest := rfl
@[simp] theorem accept_answers (s : State) (r : Request) (rest : List Request) : (s.accept r rest).answers = s.answers := rfl
@[simp] theorem accept_trace (s : State) (r : Request) (rest : List Request) : (s.accept r rest).trace = s.trace := rfl

/-! ### `State.latchCounters` -/

@[simp] theorem latchCounters_cfg (s : State) : (s.latchCounters).cfg = s.cfg := rfl
@[simp] theorem latchCounters_chain (s : State) : (s.latchCounters).chain = s.chain := rfl
@[simp] theorem latchCounters_ctl_busy (s : State) : (s.latchCounters).ctl.busy = s.ctl.busy := rfl
@[simp] theorem latchCounters_ctl_req (s : State) : (s.latchCounters).ctl.req = s.ctl.req := rfl
@[simp] theorem latchCounters_ctl_iter (s : State) : (s.latchCounters).ctl.iter = .first := rfl
@[simp] theorem latchCounters_ctl_phase (s : State) : (s.latchCounters).ctl.phase = s.ctl.phase := rfl
@[simp] theorem latchCounters_ctl_probe (s : State) : (s.latchCounters).ctl.probe = s.ctl.probe := rfl
@[simp] theorem latchCounters_ctl_expSnap (s : State) : (s.latchCounters).ctl.expSnap = s.chain.ctr := rfl
@[simp] theorem latchCounters_cs (s : State) : (s.latchCounters).cs = s.cs := rfl
@[simp] theorem latchCounters_host (s : State) : (s.latchCounters).host = s.host := rfl
@[simp] theorem latchCounters_answers (s : State) : (s.latchCounters).answers = s.answers := rfl
@[simp] theorem latchCounters_trace (s : State) : (s.latchCounters).trace = s.trace := rfl

/-! ### `State.enter` -/

@[simp] theorem enter_cfg (s : State) (ph : Phase) : (s.enter ph).cfg = s.cfg := rfl
@[simp] theorem enter_chain (s : State) (ph : Phase) : (s.enter ph).chain = s.chain := rfl
@[simp] theorem enter_ctl_busy (s : State) (ph : Phase) : (s.enter ph).ctl.busy = s.ctl.busy := rfl
@[simp] theorem enter_ctl_req (s : State) (ph : Phase) : (s.enter ph).ctl.req = s.ctl.req := rfl
@[simp] theorem enter_ctl_iter (s : State) (ph : Phase) : (s.enter ph).ctl.iter = s.ctl.iter := rfl
@[simp] theorem enter_ctl_phase (s : State) (ph : Phase) : (s.enter ph).ctl.phase = ph := rfl
@[simp] theorem enter_ctl_probe (s : State) (ph : Phase) : (s.enter ph).ctl.probe = s.ctl.probe := rfl
@[simp] theorem enter_ctl_expSnap (s : State) (ph : Phase) : (s.enter ph).ctl.expSnap = s.ctl.expSnap := rfl
@[simp] theorem enter_cs (s : State) (ph : Phase) : (s.enter ph).cs = s.cs := rfl
@[simp] theorem enter_host (s : State) (ph : Phase) : (s.enter ph).host = s.host := rfl
@[simp] theorem enter_answers (s : State) (ph : Phase) : (s.enter ph).answers = s.answers := rfl
@[simp] theorem enter_trace (s : State) (ph : Phase) : (s.enter ph).trace = s.trace := rfl

/-! ### `State.setIter` -/

@[simp] theorem setIter_cfg (s : State) (it : Iter) : (s.setIter it).cfg = s.cfg := rfl
@[simp] theorem setIter_chain (s : State) (it : Iter) : (s.setIter it).chain = s.chain := rfl
@[simp] theorem setIter_ctl_busy (s : State) (it : Iter) : (s.setIter it).ctl.busy = s.ctl.busy := rfl
@[simp] theorem setIter_ctl_req (s : State) (it : Iter) : (s.setIter it).ctl.req = s.ctl.req := rfl
@[simp] theorem setIter_ctl_iter (s : State) (it : Iter) : (s.setIter it).ctl.iter = it := rfl
@[simp] theorem setIter_ctl_phase (s : State) (it : Iter) : (s.setIter it).ctl.phase = s.ctl.phase := rfl
@[simp] theorem setIter_ctl_probe (s : State) (it : Iter) : (s.setIter it).ctl.probe = s.ctl.probe := rfl
@[simp] theorem setIter_ctl_expSnap (s : State) (it : Iter) : (s.setIter it).ctl.expSnap = s.ctl.expSnap := rfl
@[simp] theorem setIter_cs (s : State) (it : Iter) : (s.setIter it).cs = s.cs := rfl
@[simp] theorem setIter_host (s : State) (it : Iter) : (s.setIter it).host = s.host := rfl
@[simp] theorem setIter_answers (s : State) (it : Iter) : (s.setIter it).answers = s.answers := rfl
@[simp] theorem setIter_trace (s : State) (it : Iter) : (s.setIter it).trace = s.trace := rfl

/-! ### `State.setProbe` -/

@[simp] theorem setProbe_cfg (s : State) (p : ProbeState) : (s.setProbe p).cfg = s.cfg := rfl
@[simp] theorem setProbe_chain (s : State) (p : ProbeState) : (s.setProbe p).chain = s.chain := rfl
@[simp] theorem setProbe_ctl_busy (s : State) (p : ProbeState) : (s.setProbe p).ctl.busy = s.ctl.busy := rfl
@[simp] theorem setProbe_ctl_req (s : State) (p : ProbeState) : (s.setProbe p).ctl.req = s.ctl.req := rfl
@[simp] theorem setProbe_ctl_iter (s : State) (p : ProbeState) : (s.setProbe p).ctl.iter = s.ctl.iter := rfl
@[simp] theorem setProbe_ctl_phase (s : State) (p : ProbeState) : (s.setProbe p).ctl.phase = s.ctl.phase := rfl
@[simp] theorem setProbe_ctl_probe (s : State) (p : ProbeState) : (s.setProbe p).ctl.probe = p := rfl
@[simp] theorem setProbe_ctl_expSnap (s : State) (p : ProbeState) : (s.setProbe p).ctl.expSnap = s.ctl.expSnap := rfl
@[simp] theorem setProbe_cs (s : State) (p : ProbeState) : (s.setProbe p).cs = s.cs := rfl
@[simp] theorem setProbe_host (s : State) (p : ProbeState) : (s.setProbe p).host = s.host := rfl
@[simp] theorem setProbe_answers (s : State) (p : ProbeState) : (s.setProbe p).answers = s.answers := rfl
@[simp] theorem setProbe_trace (s : State) (p : ProbeState) : (s.setProbe p).trace = s.trace := rfl

/-! ### `State.emit` -/

@[simp] theorem emit_cfg (s : State) (e : Event) : (s.emit e).cfg = s.cfg := rfl
@[simp] theorem emit_chain (s : State) (e : Event) : (s.emit e).chain = s.chain := rfl
@[simp] theorem emit_ctl (s : State) (e : Event) : (s.emit e).ctl = s.ctl := rfl
@[simp] theorem emit_cs (s : State) (e : Event) : (s.emit e).cs = s.cs := rfl
@[simp] theorem emit_host (s : State) (e : Event) : (s.emit e).host = s.host := rfl
@[simp] theorem emit_answers (s : State) (e : Event) : (s.emit e).answers = s.answers := rfl
@[simp] theorem emit_trace (s : State) (e : Event) : (s.emit e).trace = s.trace ++ [e] := rfl

/-! ### `State.setCs` -/

@[simp] theorem setCs_cfg (s : State) (P : Port) (level : CsLevel) : (s.setCs P level).cfg = s.cfg := rfl
@[simp] theorem setCs_chain (s : State) (P : Port) (level : CsLevel) : (s.setCs P level).chain = s.chain := rfl
@[simp] theorem setCs_ctl (s : State) (P : Port) (level : CsLevel) : (s.setCs P level).ctl = s.ctl := rfl
@[simp] theorem setCs_cs (s : State) (P : Port) (level : CsLevel) : (s.setCs P level).cs = s.cs.set P level := rfl
@[simp] theorem setCs_host (s : State) (P : Port) (level : CsLevel) : (s.setCs P level).host = s.host := rfl
@[simp] theorem setCs_answers (s : State) (P : Port) (level : CsLevel) : (s.setCs P level).answers = s.answers := rfl
@[simp] theorem setCs_trace (s : State) (P : Port) (level : CsLevel) : (s.setCs P level).trace = s.trace ++ [.setCs P level] := rfl

/-! ### `State.xfer` -/

@[simp] theorem xfer_cfg (s : State) (tx : Bytes) : (s.xfer tx).cfg = s.cfg := rfl
@[simp] theorem xfer_chain (s : State) (tx : Bytes) : (s.xfer tx).chain = s.chain := rfl
@[simp] theorem xfer_ctl (s : State) (tx : Bytes) : (s.xfer tx).ctl = s.ctl := rfl
@[simp] theorem xfer_cs (s : State) (tx : Bytes) : (s.xfer tx).cs = s.cs := rfl
@[simp] theorem xfer_host (s : State) (tx : Bytes) : (s.xfer tx).host = s.host := rfl
@[simp] theorem xfer_answers (s : State) (tx : Bytes) : (s.xfer tx).answers = s.answers.tail := rfl
@[simp] theorem xfer_trace (s : State) (tx : Bytes) : (s.xfer tx).trace = s.trace ++ [.xfer tx (s.oracleAnswer tx)] := rfl

/-! ### `State.delayUs` -/

@[simp] theorem delayUs_cfg (s : State) (d : Nat) : (s.delayUs d).cfg = s.cfg := rfl
@[simp] theorem delayUs_chain (s : State) (d : Nat) : (s.delayUs d).chain = s.chain := rfl
@[simp] theorem delayUs_ctl (s : State) (d : Nat) : (s.delayUs d).ctl = s.ctl := rfl
@[simp] theorem delayUs_cs (s : State) (d : Nat) : (s.delayUs d).cs = s.cs := rfl
@[simp] theorem delayUs_host (s : State) (d : Nat) : (s.delayUs d).host = s.host := rfl
@[simp] theorem delayUs_answers (s : State) (d : Nat) : (s.delayUs d).answers = s.answers := rfl
@[simp] theorem delayUs_trace (s : State) (d : Nat) : (s.delayUs d).trace = s.trace ++ [.delayUs d] := rfl

/-! ### `State.setChain` -/

@[simp] theorem setChain_cfg (s : State) (info : ChainInfo) : (s.setChain info).cfg = s.cfg := rfl
@[simp] theorem setChain_chain (s : State) (info : ChainInfo) : (s.setChain info).chain = info := rfl
@[simp] theorem setChain_ctl (s : State) (info : ChainInfo) : (s.setChain info).ctl = s.ctl := rfl
@[simp] theorem setChain_cs (s : State) (info : ChainInfo) : (s.setChain info).cs = s.cs := rfl
@[simp] theorem setChain_host (s : State) (info : ChainInfo) : (s.setChain info).host = s.host := rfl
@[simp] theorem setChain_answers (s : State) (info : ChainInfo) : (s.setChain info).answers = s.answers := rfl
@[simp] theorem setChain_trace (s : State) (info : ChainInfo) : (s.setChain info).trace = s.trace := rfl

/-! ### `State.setCtr` -/

@[simp] theorem setCtr_cfg (s : State) (c : Counters) : (s.setCtr c).cfg = s.cfg := rfl
@[simp] theorem setCtr_chain_status (s : State) (c : Counters) : (s.setCtr c).chain.status = s.chain.status := rfl
@[simp] theorem setCtr_chain_availA (s : State) (c : Counters) : (s.setCtr c).chain.availA = s.chain.availA := rfl
@[simp] theorem setCtr_chain_availB (s : State) (c : Counters) : (s.setCtr c).chain.availB = s.chain.availB := rfl
@[simp] theorem setCtr_chain_currentPort (s : State) (c : Counters) : (s.setCtr c).chain.currentPort = s.chain.currentPort := rfl
@[simp] theorem setCtr_chain_ctr (s : State) (c : Counters) : (s.setCtr c).chain.ctr = c := rfl
@[simp] theorem setCtr_chain_tally (s : State) (c : Counters) : (s.setCtr c).chain.tally = s.chain.tally := rfl
@[simp] theorem setCtr_ctl (s : State) (c : Counters) : (s.setCtr c).ctl = s.ctl := rfl
@[simp] theorem setCtr_cs (s : State) (c : Counters) : (s.setCtr c).cs = s.cs := rfl
@[simp] theorem setCtr_host (s : State) (c : Counters) : (s.setCtr c).host = s.host := rfl
@[simp] theorem setCtr_answers (s : State) (c : Counters) : (s.setCtr c).answers = s.answers := rfl
@[simp] theorem setCtr_trace (s : State) (c : Counters) : (s.setCtr c).trace = s.trace := rfl

/-! ### `State.setTally` -/

@[simp] theorem setTally_cfg (s : State) (n : Nat) : (s.setTally n).cfg = s.cfg := rfl
@[simp] theorem setTally_chain_status (s : State) (n : Nat) : (s.setTally n).chain.status = s.chain.status := rfl
@[simp] theorem setTally_chain_availA (s : State) (n : Nat) : (s.setTally n).chain.availA = s.chain.availA := rfl
@[simp] theorem setTally_chain_availB (s : State) (n : Nat) : (s.setTally n).chain.availB = s.chain.availB := rfl
@[simp] theorem setTally_chain_currentPort (s : State) (n : Nat) : (s.setTally n).chain.currentPort = s.chain.currentPort := rfl
@[simp] theorem setTally_chain_ctr (s : State) (n : Nat) : (s.setTally n).chain.ctr = s.chain.ctr := rfl
@[simp] theorem setTally_chain_tally (s : State) (n : Nat) : (s.setTally n).chain.tally = n := rfl
@[simp] theorem setTally_ctl (s : State) (n : Nat) : (s.setTally n).ctl = s.ctl := rfl
@[simp] theorem setTally_cs (s : State) (n : Nat) : (s.setTally n).cs = s.cs := rfl
@[simp] theorem setTally_host (s : State) (n : Nat) : (s.setTally n).host = s.host := rfl
@[simp] theorem setTally_answers (s : State) (n : Nat) : (s.setTally n).answers = s.answers := rfl
@[simp] theorem setTally_trace (s : State) (n : Nat) : (s.setTally n).trace = s.trace := rfl

/-! ### `State.setCurrentPort` -/

@[simp] theorem setCurrentPort_cfg (s : State) (P : Port) : (s.setCurrentPort P).cfg = s.cfg := rfl
@[simp] theorem setCurrentPort_chain_status (s : State) (P : Port) : (s.setCurrentPort P).chain.status = s.chain.status := rfl
@[simp] theorem setCurrentPort_chain_availA (s : State) (P : Port) : (s.setCurrentPort P).chain.availA = s.chain.availA := rfl
@[simp] theorem setCurrentPort_chain_availB (s : State) (P : Port) : (s.setCurrentPort P).chain.availB = s.chain.availB := rfl
@[simp] theorem setCurrentPort_chain_currentPort (s : State) (P : Port) : (s.setCurrentPort P).chain.currentPort = P := rfl
@[simp] theorem setCurrentPort_chain_ctr (s : State) (P : Port) : (s.setCurrentPort P).chain.ctr = s.chain.ctr := rfl
@[simp] theorem setCurrentPort_chain_tally (s : State) (P : Port) : (s.setCurrentPort P).chain.tally = s.chain.tally := rfl
@[simp] theorem setCurrentPort_ctl (s : State) (P : Port) : (s.setCurrentPort P).ctl = s.ctl := rfl
@[simp] theorem setCurrentPort_cs (s : State) (P : Port) : (s.setCurrentPort P).cs = s.cs := rfl
@[simp] theorem setCurrentPort_host (s : State) (P : Port) : (s.setCurrentPort P).host = s.host := rfl
@[simp] theorem setCurrentPort_answers (s : State) (P : Port) : (s.setCurrentPort P).answers = s.answers := rfl
@[simp] theorem setCurrentPort_trace (s : State) (P : Port) : (s.setCurrentPort P).trace = s.trace := rfl

/-! ### `State.incCtr` -/

@[simp] theorem incCtr_cfg (s : State) (cls : DevClass) : (s.incCtr cls).cfg = s.cfg := rfl
@[simp] theorem incCtr_chain_status (s : State) (cls : DevClass) : (s.incCtr cls).chain.status = s.chain.status := rfl
@[simp] theorem incCtr_chain_availA (s : State) (cls : DevClass) : (s.incCtr cls).chain.availA = s.chain.availA := rfl
@[simp] theorem incCtr_chain_availB (s : State) (cls : DevClass) : (s.incCtr cls).chain.availB = s.chain.availB := rfl
@[simp] theorem incCtr_chain_currentPort (s : State) (cls : DevClass) : (s.incCtr cls).chain.currentPort = s.chain.currentPort := rfl
@[simp] theorem incCtr_chain_ctr (s : State) (cls : DevClass) : (s.incCtr cls).chain.ctr = incCounters cls s.chain.ctr := rfl
@[simp] theorem incCtr_chain_tally (s : State) (cls : DevClass) : (s.incCtr cls).chain.tally = s.chain.tally := rfl
@[simp] theorem incCtr_ctl (s : State) (cls : DevClass) : (s.incCtr cls).ctl = s.ctl := rfl
@[simp] theorem incCtr_cs (s : State) (cls : DevClass) : (s.incCtr cls).cs = s.cs := rfl
@[simp] theorem incCtr_host (s : State) (cls : DevClass) : (s.incCtr cls).host = s.host := rfl
@[simp] theorem incCtr_answers (s : State) (cls : DevClass) : (s.incCtr cls).answers = s.answers := rfl
@[simp] theorem incCtr_trace (s : State) (cls : DevClass) : (s.incCtr cls).trace = s.trace := rfl

/-! ### `State.commit` -/

@[simp] theorem commit_cfg (s : State) (v : ChainStatus) (a b : Nat) : (s.commit v a b).cfg = s.cfg := rfl
@[simp] theorem commit_chain_status (s : State) (v : ChainStatus) (a b : Nat) : (s.commit v a b).chain.status = v := rfl
@[simp] theorem commit_chain_availA (s : State) (v : ChainStatus) (a b : Nat) : (s.commit v a b).chain.availA = a := rfl
@[simp] theorem commit_chain_availB (s : State) (v : ChainStatus) (a b : Nat) : (s.commit v a b).chain.availB = b := rfl
@[simp] theorem commit_chain_currentPort (s : State) (v : ChainStatus) (a b : Nat) : (s.commit v a b).chain.currentPort = s.chain.currentPort := rfl
@[simp] theorem commit_chain_ctr (s : State) (v : ChainStatus) (a b : Nat) : (s.commit v a b).chain.ctr = s.chain.ctr := rfl
@[simp] theorem commit_chain_tally (s : State) (v : ChainStatus) (a b : Nat) : (s.commit v a b).chain.tally = if v ≠ s.chain.status then 0 else s.chain.tally := rfl
@[simp] theorem commit_ctl (s : State) (v : ChainStatus) (a b : Nat) : (s.commit v a b).ctl = s.ctl := rfl
@[simp] theorem commit_cs (s : State) (v : ChainStatus) (a b : Nat) : (s.commit v a b).cs = s.cs := rfl
@[simp] theorem commit_host (s : State) (v : ChainStatus) (a b : Nat) : (s.commit v a b).host = s.host := rfl
@[simp] theorem commit_answers (s : State) (v : ChainStatus) (a b : Nat) : (s.commit v a b).answers = s.answers := rfl
@[simp] theorem commit_trace (s : State) (v : ChainStatus) (a b : Nat) : (s.commit v a b).trace = s.trace := rfl

/-! ### `State.respond` -/

@[simp] theorem respond_cfg (s : State) (r : Response) : (s.respond r).cfg = s.cfg := rfl
@[simp] theorem respond_chain (s : State) (r : Response) : (s.respond r).chain = s.chain := rfl
@[simp] theorem respond_ctl_busy (s : State) (r : Response) : (s.respond r).ctl.busy = false := rfl
@[simp] theorem respond_ctl_req (s : State) (r : Response) : (s.respond r).ctl.req = s.ctl.req := rfl
@[simp] theorem respond_ctl_iter (s : State) (r : Response) : (s.respond r).ctl.iter = s.ctl.iter := rfl
@[simp] theorem respond_ctl_phase (s : State) (r : Response) : (s.respond r).ctl.phase = .idle := rfl
@[simp] theorem respond_ctl_probe (s : State) (r : Response) : (s.respond r).ctl.probe = s.ctl.probe := rfl
@[simp] theorem respond_ctl_expSnap (s : State) (r : Response) : (s.respond r).ctl.expSnap = s.ctl.expSnap := rfl
@[simp] theorem respond_cs (s : State) (r : Response) : (s.respond r).cs = s.cs := rfl
@[simp] theorem respond_host (s : State) (r : Response) : (s.respond r).host = s.host := rfl
@[simp] theorem respond_answers (s : State) (r : Response) : (s.respond r).answers = s.answers := rfl
@[simp] theorem respond_trace (s : State) (r : Response) : (s.respond r).trace = s.trace ++ [.response r] := rfl

/-! ### `State.refuse` -/

@[simp] theorem refuse_cfg (s : State) : (s.refuse).cfg = s.cfg := rfl
@[simp] theorem refuse_chain (s : State) : (s.refuse).chain = s.chain := rfl
@[simp] theorem refuse_ctl_busy (s : State) : (s.refuse).ctl.busy = false := rfl
@[simp] theorem refuse_ctl_req (s : State) : (s.refuse).ctl.req = s.ctl.req := rfl
@[simp] theorem refuse_ctl_iter (s : State) : (s.refuse).ctl.iter = s.ctl.iter := rfl
@[simp] theorem refuse_ctl_phase (s : State) : (s.refuse).ctl.phase = .idle := rfl
@[simp] theorem refuse_ctl_probe (s : State) : (s.refuse).ctl.probe = s.ctl.probe := rfl
@[simp] theorem refuse_ctl_expSnap (s : State) : (s.refuse).ctl.expSnap = s.ctl.expSnap := rfl
@[simp] theorem refuse_cs (s : State) : (s.refuse).cs = s.cs := rfl
@[simp] theorem refuse_host (s : State) : (s.refuse).host = s.host := rfl
@[simp] theorem refuse_answers (s : State) : (s.refuse).answers = s.answers := rfl
@[simp] theorem refuse_trace (s : State) : (s.refuse).trace = s.trace ++ [.response (Response.ofCode illegalCode)] := rfl

/-! ### `State.startScan` -/

@[simp] theorem startScan_cfg (s : State) (P : Port) : (s.startScan P).cfg = s.cfg := rfl
@[simp] theorem startScan_chain (s : State) (P : Port) : (s.startScan P).chain = s.chain := rfl
@[simp] theorem startScan_ctl_busy (s : State) (P : Port) : (s.startScan P).ctl.busy = s.ctl.busy := rfl
@[simp] theorem startScan_ctl_req (s : State) (P : Port) : (s.startScan P).ctl.req = s.ctl.req := rfl
@[simp] theorem startScan_ctl_iter (s : State) (P : Port) : (s.startScan P).ctl.iter = s.ctl.iter := rfl
@[simp] theorem startScan_ctl_phase (s : State) (P : Port) : (s.startScan P).ctl.phase = s.ctl.phase := rfl
@[simp] theorem startScan_ctl_probe (s : State) (P : Port) : (s.startScan P).ctl.probe = { s.ctl.probe with port := P, count := 1 }.setAv s.cfg.deviceCount := rfl
@[simp] theorem startScan_ctl_expSnap (s : State) (P : Port) : (s.startScan P).ctl.expSnap = s.ctl.expSnap := rfl
@[simp] theorem startScan_cs (s : State) (P : Port) : (s.startScan P).cs = s.cs := rfl
@[simp] theorem startScan_host (s : State) (P : Port) : (s.startScan P).host = s.host := rfl
@[simp] theorem startScan_answers (s : State) (P : Port) : (s.startScan P).answers = s.answers := rfl
@[simp] theorem startScan_trace (s : State) (P : Port) : (s.startScan P).trace = s.trace := rfl

/-! ### `State.endScan` -/

@[simp] theorem endScan_cfg (s : State) : (s.endScan).cfg = s.cfg := rfl
@[simp] theorem endScan_chain (s : State) : (s.endScan).chain = s.chain := rfl
@[simp] theorem endScan_ctl_busy (s : State) : (s.endScan).ctl.busy = s.ctl.busy := rfl
@[simp] theorem endScan_ctl_req (s : State) : (s.endScan).ctl.req = s.ctl.req := rfl
@[simp] theorem endScan_ctl_iter (s : State) : (s.endScan).ctl.iter = s.ctl.iter := rfl
@[simp] theorem endScan_ctl_phase (s : State) : (s.endScan).ctl.phase = s.ctl.phase := rfl
@[simp] theorem endScan_ctl_probe (s : State) : (s.endScan).ctl.probe = s.ctl.probe.setAv (s.ctl.probe.count - 1) := rfl
@[simp] theorem endScan_ctl_expSnap (s : State) : (s.endScan).ctl.expSnap = s.ctl.expSnap := rfl
@[simp] theorem endScan_cs (s : State) : (s.endScan).cs = s.cs := rfl
@[simp] theorem endScan_host (s : State) : (s.endScan).host = s.host := rfl
@[simp] theorem endScan_answers (s : State) : (s.endScan).answers = s.answers := rfl
@[simp] theorem endScan_trace (s : State) : (s.endScan).trace = s.trace := rfl

/-! ### `State.goOnScan` -/

@[simp] theorem goOnScan_cfg (s : State) (fs : TxStatus) : (s.goOnScan fs).cfg = s.cfg := rfl
@[simp] theorem goOnScan_chain (s : State) (fs : TxStatus) : (s.goOnScan fs).chain = s.chain := rfl
@[simp] theorem goOnScan_ctl_busy (s : State) (fs : TxStatus) : (s.goOnScan fs).ctl.busy = s.ctl.busy := rfl
@[simp] theorem goOnScan_ctl_req (s : State) (fs : TxStatus) : (s.goOnScan fs).ctl.req = s.ctl.req := rfl
@[simp] theorem goOnScan_ctl_iter (s : State) (fs : TxStatus) : (s.goOnScan fs).ctl.iter = s.ctl.iter := rfl
@[simp] theorem goOnScan_ctl_phase (s : State) (fs : TxStatus) : (s.goOnScan fs).ctl.phase = s.ctl.phase := rfl
@[simp] theorem goOnScan_ctl_probe (s : State) (fs : TxStatus) : (s.goOnScan fs).ctl.probe = { s.ctl.probe with pf := worse s.ctl.probe.pf fs, count := s.ctl.probe.count + 1 } := rfl
@[simp] theorem goOnScan_ctl_expSnap (s : State) (fs : TxStatus) : (s.goOnScan fs).ctl.expSnap = s.ctl.expSnap := rfl
@[simp] theorem goOnScan_cs (s : State) (fs : TxStatus) : (s.goOnScan fs).cs = s.cs := rfl
@[simp] theorem goOnScan_host (s : State) (fs : TxStatus) : (s.goOnScan fs).host = s.host := rfl
@[simp] theorem goOnScan_answers (s : State) (fs : TxStatus) : (s.goOnScan fs).answers = s.answers := rfl
@[simp] theorem goOnScan_trace (s : State) (fs : TxStatus) : (s.goOnScan fs).trace = s.trace := rfl

/-! ### Register files -/

@[simp] theorem CsLines.get_set (lines : CsLines) (P Q : Port) (level : CsLevel) :
    (lines.set P level).get Q = if P = Q then level else lines.get Q := by
  cases P <;> cases Q <;> rfl

@[simp] theorem CsLines.set_set (lines : CsLines) (P : Port) (x y : CsLevel) :
    (lines.set P x).set P y = lines.set P y := by
  cases P <;> rfl

@[simp] theorem CsLines.idle_set (P : Port) : CsLines.idle.set P .deasserted = CsLines.idle := by
  cases P <;> rfl

@[simp] theorem Counters.get_set (ctr : Counters) (c d : CtrClass) (v : BitVec 6) :
    (ctr.set c v).get d = if c = d then v else ctr.get d := by
  cases c <;> cases d <;> rfl

/-- Each covered counter is incremented once, the others stay (spec R252). -/
@[simp] theorem incCounters_get (cls : DevClass) (ctr : Counters) (c : CtrClass) :
    (incCounters cls ctr).get c = if c ∈ covered cls then inc (ctr.get c) else ctr.get c := by
  cases cls <;> cases c <;> rfl

/-- Each covered counter is 0, the others stay (spec R253). -/
@[simp] theorem zeroCounters_get (cls : DevClass) (ctr : Counters) (c : CtrClass) :
    (zeroCounters cls ctr).get c = if c ∈ covered cls then 0 else ctr.get c := by
  cases cls <;> cases c <;> rfl

end Sys2Proof.Machine
end

