-- ==== Sys2Proof/Laws/Ops.lean ====
section
/-! SUPPORT. What the shared operations do, once each: the events they emit, the answers they use up, the registers they
write. Later proofs cite these lemmas instead of unfolding the operations. -/

namespace Sys2Proof.Machine

/-! ## Counting events -/

@[simp] theorem xferCount_append (xs ys : List Event) : xferCount (xs ++ ys) = xferCount xs + xferCount ys := by
  induction xs with
  | nil => simp [xferCount]
  | cons e xs ih => cases e <;> simp [xferCount, ih, Nat.add_right_comm]

/-- Two disciplined runs, the second from the lines the first leaves, are one. -/
theorem csDisciplined_append (lines : CsLines) (xs ys : List Event) (mid : CsLines)
    (hmid : mid = xs.foldl (fun l e => match e with | .setCs P level => l.set P level | _ => l) lines)
    (hx : csDisciplined lines xs = true) (hy : csDisciplined mid ys = true) :
    csDisciplined lines (xs ++ ys) = true := by
  induction xs generalizing lines with
  | nil => simp_all
  | cons e xs ih =>
    cases e with
    | xfer tx a =>
      cases xs with
      | nil => simp [csDisciplined, closesNext] at hx
      | cons e' xs =>
        simp only [csDisciplined, Bool.and_eq_true, List.cons_append] at hx ⊢
        exact ⟨⟨hx.1.1, by cases e' <;> simp_all [closesNext]⟩, ih lines hmid hx.2⟩
    | _ =>
      simp only [csDisciplined, Bool.and_eq_true, List.cons_append] at hx ⊢
      first
        | exact ⟨hx.1, ih _ hmid hx.2⟩
        | exact ih _ hmid hx

/-! ## Runs -/

/-- From `s` to `t` the block emitted `evs`, none of them a response, used up one answer per exchange, left the
configuration, the host's requests, the latched request and `busy` as they were, and obeyed the chip-select discipline
if it started with both lines idle. -/
structure Ran (s t : State) (evs : List Event) : Prop where
  trace : t.trace = s.trace ++ evs
  quiet : ∀ e ∈ evs, e.isResponse = false
  answers : t.answers = s.answers.drop (xferCount evs)
  cfg : t.cfg = s.cfg
  host : t.host = s.host
  req : t.ctl.req = s.ctl.req
  busy : t.ctl.busy = s.ctl.busy
  cs : s.cs = CsLines.idle →
    t.cs = CsLines.idle ∧ csDisciplined CsLines.idle evs = true ∧
      evs.foldl (fun l e => match e with | .setCs P level => l.set P level | _ => l) CsLines.idle = CsLines.idle

/-- No exchange of the list fails. -/
def AllPassed (evs : List Event) : Prop := ∀ e ∈ evs, e.isFailedXfer = false

@[simp] theorem allPassed_nil : AllPassed [] := by simp [AllPassed]

@[simp] theorem allPassed_cons (e : Event) (es : List Event) :
    AllPassed (e :: es) ↔ e.isFailedXfer = false ∧ AllPassed es := by
  simp [AllPassed]

/-- The last exchange of the list fails, and only the deassertion of its chip-select follows. -/
def EndsInFailure (evs : List Event) : Prop :=
  ∃ pre tx a P, evs = pre ++ [.xfer tx a, .setCs P .deasserted] ∧ replyOf tx a = none ∧ AllPassed pre

/-- How a run ended: with `SpiError` exactly if its last exchange failed. -/
def EndedAs (spi : Prop) (evs : List Event) : Prop := (spi → EndsInFailure evs) ∧ (¬spi → AllPassed evs)

theorem Ran.refl (s : State) : Ran s s [] :=
  ⟨by simp, by simp, by simp [xferCount], rfl, rfl, rfl, rfl, fun h => ⟨h, by simp [csDisciplined], by simp⟩⟩

/-- A register or control write emits nothing. -/
theorem Ran.ofWrite {s t : State} (htr : t.trace = s.trace) (hcs : t.cs = s.cs) (han : t.answers = s.answers)
    (hcfg : t.cfg = s.cfg) (hho : t.host = s.host) (hre : t.ctl.req = s.ctl.req) (hbu : t.ctl.busy = s.ctl.busy) :
    Ran s t [] :=
  ⟨by simp [htr], by simp, by simp [xferCount, han], hcfg, hho, hre, hbu,
    fun h => ⟨by rw [hcs, h], by simp [csDisciplined], by simp⟩⟩

theorem Ran.trans {s t u : State} {xs ys : List Event} (h : Ran s t xs) (k : Ran t u ys) : Ran s u (xs ++ ys) where
  trace := by rw [k.trace, h.trace, List.append_assoc]
  quiet := by
    intro e he
    rcases List.mem_append.mp he with he | he
    · exact h.quiet e he
    · exact k.quiet e he
  answers := by rw [k.answers, h.answers, List.drop_drop, xferCount_append]
  cfg := k.cfg.trans h.cfg
  host := k.host.trans h.host
  req := k.req.trans h.req
  busy := k.busy.trans h.busy
  cs := by
    intro hs
    obtain ⟨ht, hd, hf⟩ := h.cs hs
    obtain ⟨hu, hd', hf'⟩ := k.cs ht
    exact ⟨hu, csDisciplined_append _ _ _ _ rfl hd (by rw [hf]; exact hd'), by rw [List.foldl_append, hf, hf']⟩

theorem AllPassed.append {xs ys : List Event} (h : AllPassed xs) (k : AllPassed ys) : AllPassed (xs ++ ys) := by
  intro e he
  rcases List.mem_append.mp he with he | he
  · exact h e he
  · exact k e he

theorem EndsInFailure.prepend {xs ys : List Event} (h : AllPassed xs) (k : EndsInFailure ys) :
    EndsInFailure (xs ++ ys) := by
  obtain ⟨pre, tx, a, P, rfl, hr, hp⟩ := k
  exact ⟨xs ++ pre, tx, a, P, by simp, hr, h.append hp⟩

theorem EndedAs.prepend {spi : Prop} {xs ys : List Event} (h : AllPassed xs) (k : EndedAs spi ys) :
    EndedAs spi (xs ++ ys) :=
  ⟨fun hs => (k.1 hs).prepend h, fun hs => h.append (k.2 hs)⟩

/-! ## Transceive (42_port.md R203) -/

/-- One exchange: its three events, its registers, and how it ended. -/
theorem transceive_ran (P : Port) (tx : Bytes) (s : State) :
    ∃ a, Ran s (transceive P tx s).2 (exchangeEvents P tx a) ∧ (transceive P tx s).1 = replyOf tx a ∧
      (∀ x rest, s.answers = x :: rest → a = x) ∧
      (transceive P tx s).2.chain = s.chain ∧ (transceive P tx s).2.ctl = s.ctl := by
  refine ⟨(s.setCs P .asserted).oracleAnswer tx, ⟨?_, ?_, ?_, rfl, rfl, rfl, rfl, ?_⟩, rfl, ?_, rfl, rfl⟩
  · simp [transceive, exchangeEvents, State.xfer]
  · simp [exchangeEvents, Event.isResponse]
  · simp [transceive, exchangeEvents, xferCount]
  · intro h
    cases P <;>
      simp [transceive, exchangeEvents, h, CsLines.set, CsLines.get, CsLines.idle, csDisciplined, closesNext, otherPort,
        State.setCs, State.xfer]
  · intro x rest h
    simp [State.oracleAnswer, h]

theorem exchangeEvents_count (P : Port) (tx : Bytes) (a : Answer) : xferCount (exchangeEvents P tx a) = 1 := rfl

/-- An exchange that is admitted passed; one that is not ended in failure. -/
theorem exchangeEvents_endedAs (P : Port) (tx : Bytes) (a : Answer) :
    EndedAs (replyOf tx a = none) (exchangeEvents P tx a) := by
  constructor
  · intro h
    exact ⟨[.setCs P .asserted], tx, a, P, rfl, h, by simp [Event.isFailedXfer]⟩
  · intro h
    have hs : (replyOf tx a).isSome = true := Option.isSome_iff_ne_none.mpr h
    simp [exchangeEvents, Event.isFailedXfer, hs]

/-- An admitted answer has the transmit buffer's length. -/
theorem replyOf_some {tx rx : Bytes} {a : Answer} (h : replyOf tx a = some rx) :
    a = .bytes rx ∧ rx.length = tx.length := by
  cases a with
  | transportError => simp [replyOf] at h
  | bytes b =>
    by_cases hl : b.length = tx.length
    · simp [replyOf, hl] at h; exact ⟨by rw [h], by rw [← h, hl]⟩
    · simp [replyOf, hl] at h

/-- A queued answer of the right length is admitted, and used up. -/
theorem transceive_answered {P : Port} {tx rx : Bytes} {s : State} {rest : List Answer}
    (h : s.answers = .bytes rx :: rest) (hl : rx.length = tx.length) :
    transceive P tx s = (some rx, { s with
      cs := s.cs.set P .deasserted
      answers := rest
      trace := s.trace ++ exchangeEvents P tx (.bytes rx) }) := by
  simp [transceive, State.setCs, State.xfer, State.oracleAnswer, h, replyOf, hl, exchangeEvents]

/-- A queued answer, whatever it is. -/
theorem transceive_queued {P : Port} {tx : Bytes} {a : Answer} {s : State} {rest : List Answer}
    (h : s.answers = a :: rest) :
    transceive P tx s = (replyOf tx a, { s with
      cs := s.cs.set P .deasserted
      answers := rest
      trace := s.trace ++ exchangeEvents P tx a }) := by
  simp [transceive, State.setCs, State.xfer, State.oracleAnswer, h, exchangeEvents]

/-! ## Activation (42_port.md R205) -/

theorem toggles_ran (P : Port) (d m : Nat) (s : State) :
    ∃ evs, Ran s (toggles P d m s) evs ∧ xferCount evs = 0 ∧ AllPassed evs ∧
      (toggles P d m s).chain = s.chain ∧ (toggles P d m s).ctl = s.ctl := by
  induction m generalizing s with
  | zero => exact ⟨[], Ran.refl s, rfl, allPassed_nil, rfl, rfl⟩
  | succ m ih =>
    have h1 : Ran s (((s.setCs P .asserted).setCs P .deasserted).delayUs d)
        [.setCs P .asserted, .setCs P .deasserted, .delayUs d] := by
      refine ⟨by simp, by simp [Event.isResponse], by simp [xferCount], rfl, rfl, rfl, rfl, ?_⟩
      intro h
      cases P <;> simp [h, CsLines.set, CsLines.get, CsLines.idle, csDisciplined, otherPort]
    obtain ⟨evs, hr, hx, hp, hc, hk⟩ := ih (((s.setCs P .asserted).setCs P .deasserted).delayUs d)
    refine ⟨_, h1.trans hr, by simp [xferCount, hx], ?_, hc, hk⟩
    exact AllPassed.append (by simp [Event.isFailedXfer]) hp

/-- The pulse train's events and lines: `m` toggles (spec R205). -/
theorem toggles_eq (P : Port) (d m : Nat) (s : State) (hm : m ≠ 0) :
    toggles P d m s = { s with
      cs := s.cs.set P .deasserted
      trace := s.trace ++ (List.replicate m [.setCs P .asserted, .setCs P .deasserted, .delayUs d]).flatten } := by
  induction m generalizing s with
  | zero => exact absurd rfl hm
  | succ m ih =>
    rw [toggles]
    rcases Nat.eq_zero_or_pos m with h | h
    · subst h
      simp [toggles, State.setCs, State.delayUs, State.emit]
    · rw [ih _ (by omega)]
      simp [State.setCs, State.delayUs, State.emit, List.replicate_succ]

end Sys2Proof.Machine
end

