-- ==== Sys2Proof/Laws/PerInstr.lean ====
section
/-! SUPPORT. Laws proved once per instruction: the encoder against spec/opcode_table.json. -/

namespace Sys2Proof.Laws

/-- A mask that keeps no bit of the `CMD` field keeps none of a command code. -/
theorem desc_masked (high mask pattern : BitVec 16) (cmd : Word) (h : high &&& mask = pattern) :
    (high ++ cmd) &&& (mask ++ 0#16) = pattern ++ 0#16 := by
  rw [BitVec.and_append, h, BitVec.and_zero]

/-- A descriptor without a command code, with its row. -/
abbrev FixedDesc (port : BitVec 1) (cls : BitVec 2) (op : Op) : Prop :=
  mkDesc port cls (opCode op) 0 &&& (tableRow op).mask = (tableRow op).pattern

end Sys2Proof.Laws

namespace Sys2Proof.Laws.RowMatches

/-- The descriptor of the encoded instruction matches its row of the opcode table under the row's mask. -/
def Statement (i : Instr) : Prop := (encode i).desc &&& (tableRow i.op).mask = (tableRow i.op).pattern

theorem status : Statement .status := by
  exact (by decide : FixedDesc 0 0 .status)

theorem command (cls : DevClass) (cmd : Word) : Statement (.command cls cmd) := by
  cases cls <;> exact desc_masked _ 0xFFCF#16 0x0001#16 cmd (by simp [Instr.op, opCode, classBits])

theorem write (cls : DevClass) (cmd : Word) (data : Bytes) : Statement (.write cls cmd data) := by
  cases cls <;> exact desc_masked _ 0xFFCF#16 0x0002#16 cmd (by simp [Instr.op, opCode, classBits])

theorem read (cls : DevClass) (cmd : Word) : Statement (.read cls cmd) := by
  cases cls <;> exact desc_masked _ 0xFFCF#16 0x0003#16 cmd (by simp [Instr.op, opCode, classBits])

theorem wake (port : Port) : Statement (.wake port) := by
  cases port
  · exact (by decide : FixedDesc 0 0 .wake)
  · exact (by decide : FixedDesc 1 0 .wake)

theorem ready (port : Port) : Statement (.ready port) := by
  cases port
  · exact (by decide : FixedDesc 0 0 .ready)
  · exact (by decide : FixedDesc 1 0 .ready)

theorem init : Statement .init := by
  exact (by decide : FixedDesc 0 0 .init)

theorem probe : Statement .probe := by
  exact (by decide : FixedDesc 0 0 .probe)

theorem crc15 (bytes : Bytes) : Statement (.crc15 bytes) := by
  exact (by decide : FixedDesc 0 0 .crc15)

theorem crc10 (bytes : Bytes) (counter : BitVec 8) : Statement (.crc10 bytes counter) := by
  exact (by decide : FixedDesc 0 0 .crc10)

theorem buildcmd (cmd : Word) : Statement (.buildcmd cmd) := by
  exact desc_masked _ 0xFFFF#16 0x000A#16 cmd (by simp [Instr.op, opCode])

theorem buildwr (port : Port) (cmd : Word) (count : BitVec 32) (data : Bytes) :
    Statement (.buildwr port cmd count data) := by
  cases port <;> exact desc_masked _ 0xFFBF#16 0x000B#16 cmd (by simp [Instr.op, opCode, portBits])

theorem parserd (port : Port) (count : BitVec 32) (counter : BitVec 8) (bytes : Bytes) :
    Statement (.parserd port count counter bytes) := by
  cases port
  · exact (by decide : FixedDesc 0 0 .parserd)
  · exact (by decide : FixedDesc 1 0 .parserd)

theorem offset (port : Port) (index : BitVec 32) (count : BitVec 32) : Statement (.offset port index count) := by
  cases port
  · exact (by decide : FixedDesc 0 0 .offset)
  · exact (by decide : FixedDesc 1 0 .offset)

theorem ctrreset (cls : DevClass) : Statement (.ctrreset cls) := by
  cases cls
  · exact (by decide : FixedDesc 0 0 .ctrreset)
  · exact (by decide : FixedDesc 0 1 .ctrreset)
  · exact (by decide : FixedDesc 0 2 .ctrreset)

end Sys2Proof.Laws.RowMatches
end

