-- ==== Sys2Proof/Laws/Topology.lean ====
section
/-! SUPPORT. What the probe does: its events, its counts, what it leaves alone (43_topology.md). -/

namespace Sys2Proof.Machine

/-! ## Statuses -/

theorem worse_eq_or (x y : TxStatus) : worse x y = x ∨ worse x y = y := by
  unfold worse
  split <;> simp

theorem worse_ne_spi {x y : TxStatus} (hx : x ≠ .spiError) (hy : y ≠ .spiError) : worse x y ≠ .spiError := by
  rcases worse_eq_or x y with h | h <;> rw [h] <;> assumption

theorem slotStatus_ne_spi (c : Params) (pay : Bytes) (pw : Word) (e : Option (BitVec 6)) :
    slotStatus c pay pw e ≠ .spiError := by
  unfold slotStatus
  split
  · simp
  · split
    · simp
    · split
      · simp
      · split <;> simp

theorem foldl_worse_ne_spi (f : Nat → TxStatus) (hf : ∀ j, f j ≠ .spiError) (l : List Nat) (x : TxStatus)
    (hx : x ≠ .spiError) : l.foldl (fun acc j => worse acc (f j)) x ≠ .spiError := by
  induction l generalizing x with
  | nil => exact hx
  | cons j l ih => exact ih _ (worse_ne_spi hx (hf j))

/-- A parser never reports a transport failure (spec R191). -/
theorem frameStatus_ne_spi (c : Params) (rx : Bytes) (P : Port) (n k : Nat) (exp : Nat → Option (BitVec 6)) :
    frameStatus c rx P n k exp ≠ .spiError :=
  foldl_worse_ne_spi _ (fun _ => slotStatus_ne_spi _ _ _ _) _ _ (by simp)

@[simp] theorem parseFrame_fst (c : Params) (rx : Bytes) (P : Port) (n k : Nat) (exp : Nat → Option (BitVec 6)) :
    (parseFrame c rx P n k exp).1 = frameStatus c rx P n k exp := rfl

/-! ## The working state -/

@[simp] theorem ProbeState.setAv_port (p : ProbeState) (v : Nat) : (p.setAv v).port = p.port := by
  unfold ProbeState.setAv
  split <;> simp_all

@[simp] theorem ProbeState.setAv_count (p : ProbeState) (v : Nat) : (p.setAv v).count = p.count := by
  unfold ProbeState.setAv
  split <;> rfl

@[simp] theorem ProbeState.setAv_pf (p : ProbeState) (v : Nat) : (p.setAv v).pf = p.pf := by
  unfold ProbeState.setAv
  split <;> rfl

/-- `av[P]` of the working state. -/
def ProbeState.av (p : ProbeState) : Port → Nat
  | .A => p.avA
  | .B => p.avB

@[simp] theorem ProbeState.setAv_av (p : ProbeState) (v : Nat) (P : Port) :
    (p.setAv v).av P = if P = p.port then v else p.av P := by
  rcases p with ⟨_ | _, _, _, _, _⟩ <;> cases P <;> rfl

/-- Same control state but for the probe's working state. -/
def SameButProbe (s t : State) : Prop := t.ctl = { s.ctl with probe := t.ctl.probe }

theorem SameButProbe.trans {s t u : State} (h : SameButProbe s t) (k : SameButProbe t u) : SameButProbe s u := by
  unfold SameButProbe at *
  rw [k, h]

/-! ## The scan of one port (spec R222, R225) -/

/-- What a scan with `left` counts to try can do. If no exchange failed, either every frame passed, `left` of them, or
the first CRC-failing frame came after `j` clean ones and set `av[P]`. -/
theorem scanPort_ran (exp : Nat → Option (BitVec 6)) (left : Nat) (s : State) :
    ∃ evs, Ran s (scanPort exp left s).2 evs ∧ EndedAs ((scanPort exp left s).1 = false) evs ∧
      xferCount evs ≤ left ∧ (scanPort exp left s).2.chain = s.chain ∧ SameButProbe s (scanPort exp left s).2 ∧
      (scanPort exp left s).2.ctl.probe.port = s.ctl.probe.port ∧
      (s.ctl.probe.pf ≠ .spiError → (scanPort exp left s).2.ctl.probe.pf ≠ .spiError) ∧
      (left ≠ 0 → ∃ a post, evs =
        exchangeEvents s.ctl.probe.port (buildReadTx s.cfg s.cfg.cmdRdsid s.ctl.probe.count) a ++ post) ∧
      (∀ P, P ≠ s.ctl.probe.port → (scanPort exp left s).2.ctl.probe.av P = s.ctl.probe.av P) ∧
      ((scanPort exp left s).1 = true →
        (xferCount evs = left ∧ (scanPort exp left s).2.ctl.probe.av s.ctl.probe.port = s.ctl.probe.av s.ctl.probe.port)
        ∨ ∃ j, j < left ∧ xferCount evs = j + 1 ∧
          (scanPort exp left s).2.ctl.probe.av s.ctl.probe.port = s.ctl.probe.count + j - 1) := by
  induction left generalizing s with
  | zero =>
    exact ⟨[], Ran.refl s, ⟨by simp [scanPort], fun _ => allPassed_nil⟩, by simp [xferCount], rfl, rfl, rfl, by simp [scanPort],
      by simp, fun _ _ => rfl, fun _ => .inl ⟨rfl, rfl⟩⟩
  | succ left ih =>
    obtain ⟨a, hr, h1, -, hc, hk⟩ :=
      transceive_ran s.ctl.probe.port (buildReadTx s.cfg s.cfg.cmdRdsid s.ctl.probe.count) s
    have hend := exchangeEvents_endedAs s.ctl.probe.port (buildReadTx s.cfg s.cfg.cmdRdsid s.ctl.probe.count) a
    generalize htr : transceive s.ctl.probe.port (buildReadTx s.cfg s.cfg.cmdRdsid s.ctl.probe.count) s = tr at *
    obtain ⟨reply, s1⟩ := tr
    simp only at hr h1 hc hk
    rw [scanPort]
    simp only [htr]
    cases reply with
    | none =>
      refine ⟨_, hr, ⟨fun _ => hend.1 h1.symm, by simp⟩, by simp [exchangeEvents_count], hc, ?_, by simp [hk], by simp [hk],
        fun _ => ⟨a, [], by simp⟩, by simp [hk], by simp⟩
      simp [SameButProbe, hk]
    | some rx =>
      have hpass : AllPassed (exchangeEvents s.ctl.probe.port (buildReadTx s.cfg s.cfg.cmdRdsid s.ctl.probe.count) a) :=
        hend.2 (by rw [← h1]; simp)
      by_cases hf : frameCrcFails s1.cfg rx s.ctl.probe.count = true
      · simp only [hf, if_true]
        refine ⟨_, hr.trans (Ran.ofWrite (t := s1.endScan) rfl rfl rfl rfl rfl rfl rfl), ⟨by simp, fun _ => ?_⟩, ?_,
          by simpa using hc, ?_, by simp [hk], by simp [hk], fun _ => ⟨a, [], rfl⟩, ?_, fun _ => .inr ⟨0, by omega, ?_, ?_⟩⟩
        · exact hpass.append allPassed_nil
        · simp [exchangeEvents_count]
        · simp [SameButProbe, hk, State.endScan, State.setProbe]
        · intro P hP
          simp [hk, hP]
        · simp [exchangeEvents_count]
        · simp [hk]
      · have hf' : frameCrcFails s1.cfg rx s.ctl.probe.count = false := by simpa using hf
        simp only [hf', Bool.false_eq_true, if_false, parseFrame_fst]
        generalize hs2 : s1.goOnScan
          (frameStatus s1.cfg rx s.ctl.probe.port s1.cfg.deviceCount s.ctl.probe.count exp) = s2
        have hw : Ran s1 s2 [] := by rw [← hs2]; exact Ran.ofWrite rfl rfl rfl rfl rfl rfl rfl
        obtain ⟨evs, kr, ke, kn, kc, kk, kp, kf, -, kav, kok⟩ := ih s2
        have hprobe : s2.ctl.probe = { s.ctl.probe with
            pf := worse s.ctl.probe.pf (frameStatus s1.cfg rx s.ctl.probe.port s1.cfg.deviceCount s.ctl.probe.count exp)
            count := s.ctl.probe.count + 1 } := by
          rw [← hs2]; simp [hk]
        have hctl : s2.ctl = { s.ctl with probe := s2.ctl.probe } := by
          rw [← hs2]; simp [State.goOnScan, State.setProbe, hk]
        refine ⟨_, (hr.trans hw).trans kr, ?_, ?_, ?_, ?_, ?_, ?_, fun _ => ⟨a, evs, by simp⟩, ?_, ?_⟩
        · exact EndedAs.prepend (hpass.append allPassed_nil) ke
        · simp [exchangeEvents_count]; omega
        · rw [kc, ← hs2]; simpa using hc
        · exact SameButProbe.trans (s := s) (t := s2) hctl kk
        · rw [kp, hprobe]
        · intro hpf
          apply kf
          rw [hprobe]
          exact worse_ne_spi hpf (frameStatus_ne_spi _ _ _ _ _ _)
        · intro P hP
          rw [kav P (by rw [hprobe]; exact hP), hprobe]
          cases P <;> rfl
        · intro hok
          rcases kok hok with ⟨hx, hav⟩ | ⟨j, hj, hx, hav⟩
          · left
            refine ⟨by simp [exchangeEvents_count, hx]; omega, ?_⟩
            rw [hprobe] at hav
            rw [hav]
            cases s.ctl.probe.port <;> rfl
          · right
            refine ⟨j + 1, by omega, by simp [exchangeEvents_count, hx]; omega, ?_⟩
            rw [hprobe] at hav
            rw [hav]
            simp

/-! ## The probe (spec R225) -/

/-- What a probe can do: no ChainInfo register changes; no exchange failed exactly if it returned counts, at most `n` each,
classified, with a counter fault that is not `SpiError`; and it made `x(av[A]) + x(av[B])` exchanges (spec R230). -/
theorem runProbe_ran (s : State) :
    ∃ evs, Ran s (runProbe s).2 evs ∧ EndedAs ((runProbe s).1 = .spiError) evs ∧
      xferCount evs ≤ 2 * s.cfg.deviceCount ∧ (runProbe s).2.chain = s.chain ∧ SameButProbe s (runProbe s).2 ∧
      ∀ cs a b pf, (runProbe s).1 = .found cs a b pf →
        cs = classify a b s.cfg.deviceCount ∧ a ≤ s.cfg.deviceCount ∧ b ≤ s.cfg.deviceCount ∧ pf ≠ .spiError ∧
        xferCount evs = (if a < s.cfg.deviceCount then a + 1 else s.cfg.deviceCount) +
          (if b < s.cfg.deviceCount then b + 1 else s.cfg.deviceCount) ∧
        (1 ≤ s.cfg.deviceCount → ∀ P : Port, ∃ x pre post,
          evs = pre ++ exchangeEvents P (buildReadTx s.cfg s.cfg.cmdRdsid 1) x ++ post) := by
  unfold runProbe
  simp only
  generalize hs0 : (s.setProbe { s.ctl.probe with pf := .success }).startScan .A = s0
  have hw0 : Ran s s0 [] := by rw [← hs0]; exact Ran.ofWrite rfl rfl rfl rfl rfl rfl rfl
  have hc0 : s0.chain = s.chain := by rw [← hs0]; rfl
  have hg0 : s0.cfg = s.cfg := by rw [← hs0]; rfl
  have hk0 : SameButProbe s s0 := by rw [← hs0]; rfl
  have hp0 : s0.ctl.probe = { port := .A, count := 1, avA := s.cfg.deviceCount, avB := s.ctl.probe.avB, pf := .success } := by
    rw [← hs0]; rfl
  obtain ⟨evsA, rA, eA, nA, cA, kA, pA, fA, iA, -, oA⟩ :=
    scanPort_ran (expected s.cfg .shared s.chain.ctr) s.cfg.deviceCount s0
  generalize scanPort (expected s.cfg .shared s.chain.ctr) s.cfg.deviceCount s0 = rA' at *
  obtain ⟨okA, s1⟩ := rA'
  simp only at rA eA nA cA kA pA fA oA
  cases okA with
  | false =>
    refine ⟨_, hw0.trans rA, ⟨fun _ => ?_, by simp⟩, ?_, by rw [cA, hc0], hk0.trans kA, by simp⟩
    · exact (eA.1 rfl).prepend allPassed_nil
    · simp; omega
  | true =>
    have passA : AllPassed evsA := eA.2 (by simp)
    have hg1 : s1.cfg = s.cfg := rA.cfg.trans hg0
    simp only
    generalize hs1 : s1.startScan .B = s1' at *
    have hw1 : Ran s1 s1' [] := by rw [← hs1]; exact Ran.ofWrite rfl rfl rfl rfl rfl rfl rfl
    have hc1 : s1'.chain = s1.chain := by rw [← hs1]; rfl
    have hg1' : s1'.cfg = s.cfg := by rw [← hs1]; exact hg1
    have hk1 : SameButProbe s1 s1' := by rw [← hs1]; rfl
    have hp1 : s1'.ctl.probe =
        { port := .B, count := 1, avA := s1.ctl.probe.avA, avB := s.cfg.deviceCount, pf := s1.ctl.probe.pf } := by
      rw [← hs1, ← hg1]; rfl
    obtain ⟨evsB, rB, eB, nB, cB, kB, pB, fB, iB, avB, oB⟩ :=
      scanPort_ran (expected s.cfg .shared s.chain.ctr) s.cfg.deviceCount s1'
    generalize scanPort (expected s.cfg .shared s.chain.ctr) s.cfg.deviceCount s1' = rB' at *
    obtain ⟨okB, s2⟩ := rB'
    simp only at rB eB nB cB kB pB fB avB oB
    have hran := (hw0.trans rA).trans (hw1.trans rB)
    have hsame := (hk0.trans kA).trans (hk1.trans kB)
    cases okB with
    | false =>
      refine ⟨_, hran, ⟨fun _ => ?_, by simp⟩, ?_, by rw [cB, hc1, cA, hc0], hsame, by simp⟩
      · exact EndsInFailure.prepend (allPassed_nil.append passA) ((eB.1 rfl).prepend allPassed_nil)
      · simp; omega
    | true =>
      have passB : AllPassed evsB := eB.2 (by simp)
      refine ⟨_, hran, ⟨by simp, fun _ => ?_⟩, ?_, by rw [cB, hc1, cA, hc0], hsame, ?_⟩
      · exact (allPassed_nil.append passA).append (allPassed_nil.append passB)
      · simp; omega
      · intro cs a b pf hfound
        simp only [ProbeResult.found.injEq] at hfound
        obtain ⟨rfl, rfl, rfl, rfl⟩ := hfound
        have hA : s2.ctl.probe.avA = s1.ctl.probe.avA := by
          have := avB .A (by rw [hp1]; simp)
          rw [hp1] at this
          exact this
        have oA' := oA rfl
        have oB' := oB rfl
        rw [hp0] at oA'
        rw [hp1] at oB'
        simp only [ProbeState.av] at oA' oB'
        refine ⟨rfl, ?_, ?_, ?_, ?_, ?_⟩
        · rw [hA]; rcases oA' with ⟨-, h⟩ | ⟨j, hj, -, h⟩ <;> omega
        · rcases oB' with ⟨-, h⟩ | ⟨j, hj, -, h⟩ <;> omega
        · exact fB (by rw [hp1]; exact fA (by rw [hp0]; simp))
        · rw [hA]
          simp only [List.nil_append, xferCount_append]
          rcases oA' with ⟨hx, h⟩ | ⟨j, hj, hx, h⟩ <;> rcases oB' with ⟨hy, h'⟩ | ⟨j', hj', hy, h'⟩ <;>
            (repeat' split) <;> omega
        · intro hn P
          cases P with
          | A =>
            obtain ⟨x, post, hpost⟩ := iA (by omega)
            rw [hp0, hg0] at hpost
            exact ⟨x, [], post ++ evsB, by simp [hpost]⟩
          | B =>
            obtain ⟨x, post, hpost⟩ := iB (by omega)
            rw [hp1, hg1'] at hpost
            exact ⟨x, evsA, post, by simp [hpost]⟩

/-! ## Classification and commit -/

theorem classify_complete {a b n : Nat} : classify a b n = .complete ↔ a = n ∧ b = n := by
  unfold classify
  split
  · simp_all
  · split <;> simp_all

theorem classify_singleBreak {a b n : Nat} : classify a b n = .singleBreak ↔ a + b = n ∧ ¬(a = n ∧ b = n) := by
  unfold classify
  split
  · simp_all
  · split <;> simp_all

theorem classify_multipleBreak {a b n : Nat} : classify a b n = .multipleBreak ↔ a + b ≠ n ∧ ¬(a = n ∧ b = n) := by
  unfold classify
  split
  · simp_all
  · split <;> simp_all

/-- What the commit of a probe's result leaves (spec R37, R228). -/
theorem classify_statusFits (info : ChainInfo) (a b n : Nat) : (info.commit (classify a b n) a b).statusFits n :=
  ⟨classify_complete, classify_singleBreak, classify_multipleBreak⟩

end Sys2Proof.Machine
end

