-- ==== Sys2Proof/Laws/Transactor.lean ====
section
/-! SUPPORT. What the transactor does, once per operation: the events it emits, how they end, and every way a branch of
the outer loop can end (44_transactor.md). -/

namespace Sys2Proof.Machine

/-! ## What a commit rests on -/

/-- The events hold a probe's 1-slot frame on each port. -/
def ProbedIn (c : Params) (evs : List Event) : Prop :=
  1 ≤ c.deviceCount → ∀ P : Port, ∃ x pre post,
    evs = pre ++ exchangeEvents P (buildReadTx c c.cmdRdsid 1) x ++ post

theorem ProbedIn.prepend {c : Params} {evs : List Event} (h : ProbedIn c evs) (pre : List Event) :
    ProbedIn c (pre ++ evs) := by
  intro hn P
  obtain ⟨x, p, q, rfl⟩ := h hn P
  exact ⟨x, pre ++ p, q, by simp⟩

theorem ProbedIn.append {c : Params} {evs : List Event} (h : ProbedIn c evs) (post : List Event) :
    ProbedIn c (evs ++ post) := by
  intro hn P
  obtain ⟨x, p, q, rfl⟩ := h hn P
  exact ⟨x, p, q ++ post, by simp⟩

/-- A probe's result that may be committed on a chain of `c`: counts within the chain, measured in `evs`. -/
def Probed (c : Params) (evs : List Event) (a b : Nat) : Prop :=
  a ≤ c.deviceCount ∧ b ≤ c.deviceCount ∧ ProbedIn c evs

/-! ## Counter reset (spec R253, R254) -/

theorem rstccPorts_length (info : ChainInfo) : (rstccPorts info).length ≤ 2 := by
  unfold rstccPorts
  split
  · simp
  · exact (List.length_filter_le _ _)

theorem broadcast_ran (ports : List Port) (s : State) :
    ∃ evs, Ran s (broadcast ports s).2 evs ∧ EndedAs ((broadcast ports s).1 = false) evs ∧
      xferCount evs ≤ ports.length ∧ (broadcast ports s).2.chain = s.chain ∧ (broadcast ports s).2.ctl = s.ctl := by
  induction ports generalizing s with
  | nil => exact ⟨[], Ran.refl s, ⟨by simp [broadcast], fun _ => allPassed_nil⟩, by simp [xferCount], rfl, rfl⟩
  | cons P rest ih =>
    obtain ⟨a, hr, h1, -, hc, hk⟩ := transceive_ran P (buildCommandFrame s.cfg s.cfg.cmdRstcc) s
    have hend := exchangeEvents_endedAs P (buildCommandFrame s.cfg s.cfg.cmdRstcc) a
    rw [broadcast]
    generalize transceive P (buildCommandFrame s.cfg s.cfg.cmdRstcc) s = tr at *
    obtain ⟨reply, s1⟩ := tr
    simp only at hr h1 hc hk
    cases reply with
    | none => exact ⟨_, hr, ⟨fun _ => hend.1 h1.symm, by simp⟩, by simp [exchangeEvents_count], hc, hk⟩
    | some rx =>
      obtain ⟨evs, kr, ke, kn, kc, kk⟩ := ih s1
      refine ⟨_, hr.trans kr, ke.prepend (hend.2 (by rw [← h1]; simp)), ?_, kc.trans hc, kk.trans hk⟩
      simp [exchangeEvents_count]; omega

/-- A counter reset zeroes the covered counters, broadcasts at most twice, and answers `r`, or `SpiError` exactly if an
exchange failed. -/
theorem counterReset_ran (cls : DevClass) (r : TxStatus) (s : State) (hr : r ≠ .spiError) :
    ∃ evs, Ran s (counterReset cls r s).2 evs ∧ EndedAs ((counterReset cls r s).1 = .spiError) evs ∧
      xferCount evs ≤ 2 ∧
      ((counterReset cls r s).1 = r ∨ (counterReset cls r s).1 = .spiError) ∧
      (counterReset cls r s).2.chain = { s.chain with ctr := zeroCounters cls s.chain.ctr } ∧
      (counterReset cls r s).2.ctl = { s.ctl with phase := .counterReset } := by
  obtain ⟨evs, kr, ke, kn, kc, kk⟩ := broadcast_ran
    (rstccPorts ((s.enter .counterReset).setCtr (zeroCounters cls s.chain.ctr)).chain)
    ((s.enter .counterReset).setCtr (zeroCounters cls s.chain.ctr))
  have hw : Ran s ((s.enter .counterReset).setCtr (zeroCounters cls s.chain.ctr)) [] :=
    Ran.ofWrite rfl rfl rfl rfl rfl rfl rfl
  have hn := rstccPorts_length ((s.enter .counterReset).setCtr (zeroCounters cls s.chain.ctr)).chain
  unfold counterReset
  simp only
  generalize broadcast _ ((s.enter .counterReset).setCtr (zeroCounters cls s.chain.ctr)) = b at *
  obtain ⟨ok, s1⟩ := b
  cases ok with
  | false => exact ⟨evs, hw.trans kr, ⟨fun _ => ke.1 rfl, by simp⟩, by omega, .inr rfl, kc, kk⟩
  | true => exact ⟨evs, hw.trans kr, ⟨fun h => absurd h hr, fun _ => ke.2 (by simp)⟩, by omega, .inl rfl, kc, kk⟩

/-! ## Attempts (spec R259) -/

/-- One attempt makes one exchange and writes no register; only a READ's can end in another status than `Success` or
`SpiError`. -/
theorem attempt_ran (op : Operation) (P : Port) (k : Nat) (s : State) :
    ∃ evs, Ran s (attempt op P k s).2 evs ∧ EndedAs ((attempt op P k s).1.1 = .spiError) evs ∧
      xferCount evs = 1 ∧ (attempt op P k s).2.chain = s.chain ∧ (attempt op P k s).2.ctl = s.ctl ∧
      (op.kind ≠ .read → (attempt op P k s).1.1 = .success ∨ (attempt op P k s).1.1 = .spiError) := by
  obtain ⟨a, hr, h1, -, hc, hk⟩ := transceive_ran P (attemptTx s.cfg op P k) s
  have hend := exchangeEvents_endedAs P (attemptTx s.cfg op P k) a
  unfold attempt
  generalize transceive P (attemptTx s.cfg op P k) s = tr at *
  obtain ⟨reply, s1⟩ := tr
  simp only at hr h1 hc hk
  cases reply with
  | none => exact ⟨_, hr, ⟨fun _ => hend.1 h1.symm, by simp⟩, exchangeEvents_count _ _ _, hc, hk, by simp⟩
  | some rx =>
    have hp := hend.2 (by rw [← h1]; simp)
    refine ⟨_, hr, ⟨fun h => absurd h ?_, fun _ => hp⟩, exchangeEvents_count _ _ _, hc, hk, ?_⟩
    · unfold attemptResult
      rcases op with ⟨_ | _ | _, _, _, _⟩
      · simp
      · simp
      · exact frameStatus_ne_spi _ _ _ _ _ _
    · intro hne
      unfold attemptResult
      rcases op with ⟨_ | _ | _, _, _, _⟩ <;> simp_all

/-- A queued answer of the right length: what an attempt makes of it, and the state it leaves. -/
theorem attempt_answered {op : Operation} {P : Port} {k : Nat} {s : State} {rx : Bytes} {rest : List Answer}
    (ha : s.answers = .bytes rx :: rest) (hl : rx.length = (attemptTx s.cfg op P k).length) :
    attempt op P k s = (attemptResult s.cfg s.ctl.expSnap op P k rx, { s with
      cs := s.cs.set P .deasserted
      answers := rest
      trace := s.trace ++ exchangeEvents P (attemptTx s.cfg op P k) (.bytes rx) }) := by
  unfold attempt
  rw [transceive_answered ha hl]

/-- A frame whose every slot passes gives a READ its data (spec R175). -/
theorem attemptResult_read {c : Params} {snap : Counters} {op : Operation} {P : Port} {k : Nat} {rx : Bytes}
    (hop : op.kind = .read)
    (h : frameStatus c rx P c.deviceCount k (expected c op.cls snap) = .success) :
    attemptResult c snap op P k rx = (.success, frameData rx P c.deviceCount k) := by
  simp [attemptResult, hop, parseFrame, h]

/-- A frame with a failing slot gives a READ its status and no data (spec R175, R179). -/
theorem attemptResult_read_fault {c : Params} {snap : Counters} {op : Operation} {P : Port} {k : Nat} {rx : Bytes}
    {r : TxStatus} (hop : op.kind = .read) (h : frameStatus c rx P c.deviceCount k (expected c op.cls snap) = r)
    (hr : r ≠ .success) : attemptResult c snap op P k rx = (r, []) := by
  subst h
  simp [attemptResult, hop, parseFrame, hr]

/-- The dual-port branch's attempt on one port, made or skipped. -/
theorem dualAttempt_ran (op : Operation) (P : Port) (s : State) :
    ∃ evs, Ran s (dualAttempt op P s).2 evs ∧ EndedAs ((dualAttempt op P s).1.1 = .spiError) evs ∧
      xferCount evs ≤ 1 ∧ (dualAttempt op P s).2.chain = s.chain ∧ (dualAttempt op P s).2.ctl = s.ctl ∧
      (op.kind ≠ .read → (dualAttempt op P s).1.1 = .success ∨ (dualAttempt op P s).1.1 = .spiError) := by
  unfold dualAttempt
  split
  · obtain ⟨evs, hr, he, hn, hc, hk, hs⟩ := attempt_ran op P (s.chain.avail P) s
    exact ⟨evs, hr, he, by omega, hc, hk, hs⟩
  · exact ⟨[], Ran.refl s, ⟨by simp, fun _ => allPassed_nil⟩, by simp [xferCount], rfl, rfl, fun _ => .inl rfl⟩

/-! ## How a branch can end -/

/-- The verdict is `SpiError`. -/
def Verdict.IsSpi (v : Verdict) : Prop := ∃ d, v = .done .spiError d

@[simp] theorem Verdict.isSpi_done (st : TxStatus) (d : Bytes) : (Verdict.done st d).IsSpi ↔ st = .spiError := by
  simp [Verdict.IsSpi]

@[simp] theorem Verdict.isSpi_retry : ¬Verdict.retry.IsSpi := by simp [Verdict.IsSpi]

/-- The broadcast exchanges a branch with this verdict may have made: a retry made none. -/
def Verdict.extra : Verdict → Nat
  | .retry => 0
  | .done _ _ => 2

@[simp] theorem Verdict.extra_retry : Verdict.retry.extra = 0 := rfl
@[simp] theorem Verdict.extra_done (st : TxStatus) (d : Bytes) : (Verdict.done st d).extra = 2 := rfl

/-- Every way a re-probe can end, with the ChainInfo registers it leaves (spec R264). -/
inductive ReprobeEnds (c : Params) (it : Iter) (info : ChainInfo) (evs : List Event) : Verdict → ChainInfo → Prop where
  /-- A probe exchange failed: nothing is committed. -/
  | aborted : ReprobeEnds c it info evs (.done .spiError []) info
  /-- The probe found a counter fault: commit, and a SHARED counter reset. -/
  | fault (a b : Nat) (pf st : TxStatus) (hp : Probed c evs a b) (hpf : pf.isCounterFault = true)
      (hst : st = pf ∨ st = .spiError) :
      ReprobeEnds c it info evs (.done st [])
        { info.commit (classify a b c.deviceCount) a b with ctr := zeroCounters .shared info.ctr }
  /-- Iteration 2, or the chain is in `MultipleBreak`: the break is reported. -/
  | broken (a b : Nat) (hp : Probed c evs a b) (h : it = .second ∨ classify a b c.deviceCount = .multipleBreak) :
      ReprobeEnds c it info evs (.done .chainBreakError []) (info.commit (classify a b c.deviceCount) a b)
  /-- Iteration 2 will run with the new status. -/
  | retry (a b : Nat) (hp : Probed c evs a b) (hit : it = .first)
      (hcs : classify a b c.deviceCount ≠ .multipleBreak) :
      ReprobeEnds c it info evs .retry (info.commit (classify a b c.deviceCount) a b)

theorem ReprobeEnds.prepend {c : Params} {it : Iter} {info info' : ChainInfo} {evs : List Event} {v : Verdict}
    (h : ReprobeEnds c it info evs v info') (pre : List Event) : ReprobeEnds c it info (pre ++ evs) v info' := by
  cases h with
  | aborted => exact .aborted
  | fault a b pf st hp hpf hst => exact .fault a b pf st ⟨hp.1, hp.2.1, hp.2.2.prepend pre⟩ hpf hst
  | broken a b hp h => exact .broken a b ⟨hp.1, hp.2.1, hp.2.2.prepend pre⟩ h
  | retry a b hp hit hcs => exact .retry a b ⟨hp.1, hp.2.1, hp.2.2.prepend pre⟩ hit hcs

/-- What every step of the outer loop leaves of the control state. -/
def SameOperands (s t : State) : Prop := t.ctl.iter = s.ctl.iter ∧ t.ctl.expSnap = s.ctl.expSnap

theorem SameOperands.trans {s t u : State} (h : SameOperands s t) (k : SameOperands t u) : SameOperands s u :=
  ⟨k.1.trans h.1, k.2.trans h.2⟩

theorem SameOperands.ofCtl {s t : State} (h : t.ctl = s.ctl) : SameOperands s t := by
  simp [SameOperands, h]

theorem SameOperands.ofPhase {s t : State} {ph : Phase} (h : t.ctl = { s.ctl with phase := ph }) :
    SameOperands s t := by
  simp [SameOperands, h]

theorem SameOperands.ofProbe {s t : State} (h : SameButProbe s t) : SameOperands s t := by
  unfold SameButProbe at h
  constructor <;> rw [h]

/-- A counter fault is not a transport failure. -/
theorem isCounterFault_ne_spi {x : TxStatus} (h : x.isCounterFault = true) : x ≠ .spiError := by
  rintro rfl; simp [TxStatus.isCounterFault] at h

/-- A re-probe: at most `2n` probe exchanges, and two broadcast ones where a counter fault was found (spec R264). -/
theorem reprobe_ran (s : State) :
    ∃ evs, Ran s (reprobe s).2 evs ∧ EndedAs (reprobe s).1.IsSpi evs ∧
      xferCount evs ≤ 2 * s.cfg.deviceCount + (reprobe s).1.extra ∧
      SameOperands s (reprobe s).2 ∧
      ReprobeEnds s.cfg s.ctl.iter s.chain evs (reprobe s).1 (reprobe s).2.chain := by
  obtain ⟨evs, hr, he, hn, hc, hk, hf⟩ := runProbe_ran (s.enter .reprobe)
  have hw : Ran s (s.enter .reprobe) [] := Ran.ofWrite rfl rfl rfl rfl rfl rfl rfl
  have hop : SameOperands s (s.enter .reprobe) := SameOperands.ofPhase rfl
  unfold reprobe
  generalize runProbe (s.enter .reprobe) = p at *
  obtain ⟨res, s1⟩ := p
  simp only [enter_cfg, enter_chain] at hr he hn hc hk hf
  have hran := hw.trans hr
  have hop1 := hop.trans (SameOperands.ofProbe hk)
  rw [List.nil_append] at hran
  cases res with
  | spiError =>
    refine ⟨evs, hran, ⟨fun _ => he.1 rfl, by simp⟩, by simp; omega, hop1, ?_⟩
    simp only [hc]
    exact .aborted
  | found cs a b pf =>
    obtain ⟨rfl, ha, hb, hpf, -, hin'⟩ := hf cs a b pf rfl
    have hin : ProbedIn s.cfg evs := hin'
    have hp : Probed s.cfg evs a b := ⟨ha, hb, hin⟩
    have hpass : AllPassed evs := he.2 (by simp)
    have hw2 : Ran s1 (s1.commit (classify a b s.cfg.deviceCount) a b) [] := Ran.ofWrite rfl rfl rfl rfl rfl rfl rfl
    have hran2 := hran.trans hw2
    rw [List.append_nil] at hran2
    have hch : (s1.commit (classify a b s.cfg.deviceCount) a b).chain =
        s.chain.commit (classify a b s.cfg.deviceCount) a b := by rw [← hc]; rfl
    have hop2 : SameOperands s (s1.commit (classify a b s.cfg.deviceCount) a b) := hop1
    simp only
    generalize s1.commit (classify a b s.cfg.deviceCount) a b = s2 at *
    unfold reprobeOutcome
    by_cases hfault : pf.isCounterFault = true
    · obtain ⟨evs', kr, ke, kn, kst, kc, kk⟩ := counterReset_ran .shared pf s2 (isCounterFault_ne_spi hfault)
      rw [if_pos hfault]
      refine ⟨evs ++ evs', hran2.trans kr, ?_, ?_, hop2.trans (SameOperands.ofPhase kk), ?_⟩
      · simpa [finish] using ke.prepend hpass
      · simp [finish]; omega
      · have hctr : s2.chain.ctr = s.chain.ctr := by rw [hch]; rfl
        simp only [finish, kc, hch]
        have h := ReprobeEnds.fault (c := s.cfg) (it := s.ctl.iter) (info := s.chain) (evs := evs ++ evs') a b pf _
          ⟨ha, hb, hin.append evs'⟩ hfault kst
        rwa [← hctr, hch] at h
    · rw [if_neg hfault]
      by_cases hit : s2.ctl.iter = .second ∨ s2.chain.status = .multipleBreak
      · rw [if_pos hit]
        refine ⟨evs, hran2, ⟨by simp, fun _ => hpass⟩, by simp; omega, hop2, ?_⟩
        simp only [hch]
        refine .broken a b hp ?_
        rw [hop2.1, hch] at hit
        exact hit
      · rw [if_neg hit]
        refine ⟨evs, hran2, ⟨by simp, fun _ => hpass⟩, by simpa using hn, hop2, ?_⟩
        simp only [hch]
        rw [hop2.1, hch] at hit
        simp only [not_or] at hit
        refine .retry a b hp ?_ hit.2
        cases h : s.ctl.iter with
        | first => rfl
        | second => exact absurd h hit.1

/-- Every way a branch of the outer loop can end, with the ChainInfo registers it leaves (spec R258, R260 to R264). -/
inductive BranchEnds (c : Params) (it : Iter) (op : Operation) (info : ChainInfo) (evs : List Event) :
    Verdict → ChainInfo → Prop where
  /-- An attempt failed: the tally 0 where the chain is broken. -/
  | spi : BranchEnds c it op info evs (.done .spiError [])
      { info with tally := if info.status = .complete then info.tally else 0 }
  /-- Success on a complete chain: the counters, and the port of a READ or WRITE. -/
  | full (data : Bytes) (hs : info.status = .complete) :
      BranchEnds c it op info evs (.done .success data)
        { info with
          ctr := incCounters op.cls info.ctr
          currentPort := if op.kind = .command then info.currentPort else otherPort info.currentPort }
  /-- A READ met a counter fault: a counter reset, and the tally where the chain is broken. -/
  | fault (r st : TxStatus) (hop : op.kind = .read) (hr : r.isCounterFault = true) (hst : st = r ∨ st = .spiError) :
      BranchEnds c it op info evs (.done st [])
        { info with
          ctr := zeroCounters op.cls info.ctr
          tally := if info.status = .complete then info.tally else 0 }
  /-- A chain break, or an attempt in `MultipleBreak`: a re-probe, the tally 0 after a failed dual-port attempt. -/
  | reprobed (t : Nat) (v : Verdict) (info' : ChainInfo)
      (ht : (t = info.tally ∨ t = 0) ∧ (info.status = .singleBreak → t = 0))
      (hop : op.kind = .read ∨ info.status = .multipleBreak)
      (h : ReprobeEnds c it { info with tally := t } evs v info') : BranchEnds c it op info evs v info'
  /-- Success in `SingleBreak` below the tally limit. -/
  | counted (data : Bytes) (hs : info.status = .singleBreak) (ht : info.tally + 1 ≠ c.dualPortLimit) :
      BranchEnds c it op info evs (.done .success data)
        { info with ctr := incCounters op.cls info.ctr, tally := info.tally + 1 }
  /-- Success at the tally limit, whose probe failed. -/
  | limitAborted (hs : info.status = .singleBreak) (ht : info.tally + 1 = c.dualPortLimit) :
      BranchEnds c it op info evs (.done .spiError [])
        { info with ctr := incCounters op.cls info.ctr, tally := 0 }
  /-- Success at the tally limit, whose probe found a counter fault. -/
  | limitFault (a b : Nat) (pf st : TxStatus) (hs : info.status = .singleBreak)
      (ht : info.tally + 1 = c.dualPortLimit) (hp : Probed c evs a b) (hpf : pf.isCounterFault = true)
      (hst : st = pf ∨ st = .spiError) :
      BranchEnds c it op info evs (.done st [])
        { info with
          ctr := zeroCounters .shared (incCounters op.cls info.ctr)
          status := classify a b c.deviceCount
          availA := a
          availB := b
          tally := 0 }
  /-- Success at the tally limit. -/
  | limitPassed (a b : Nat) (data : Bytes) (hs : info.status = .singleBreak)
      (ht : info.tally + 1 = c.dualPortLimit) (hp : Probed c evs a b) :
      BranchEnds c it op info evs (.done .success data)
        { info with
          ctr := incCounters op.cls info.ctr
          status := classify a b c.deviceCount
          availA := a
          availB := b
          tally := 0 }

theorem BranchEnds.prepend {c : Params} {it : Iter} {op : Operation} {info info' : ChainInfo} {evs : List Event}
    {v : Verdict} (h : BranchEnds c it op info evs v info') (pre : List Event) :
    BranchEnds c it op info (pre ++ evs) v info' := by
  cases h with
  | spi => exact .spi
  | full data hs => exact .full data hs
  | fault r st hop hr hst => exact .fault r st hop hr hst
  | reprobed t _ _ ht hop h => exact .reprobed t _ _ ht hop (h.prepend pre)
  | counted data hs ht => exact .counted data hs ht
  | limitAborted hs ht => exact .limitAborted hs ht
  | limitFault a b pf st hs ht hp hpf hst => exact .limitFault a b pf st hs ht ⟨hp.1, hp.2.1, hp.2.2.prepend pre⟩ hpf hst
  | limitPassed a b data hs ht hp => exact .limitPassed a b data hs ht ⟨hp.1, hp.2.1, hp.2.2.prepend pre⟩

/-! ## The branches -/

/-- What a procedure of the outer loop promises: its events and their end, at most `x` exchanges besides a probe's, and
one of the ends of `BranchEnds`. -/
def BranchRan (op : Operation) (x : Nat) (s : State) (r : Verdict × State) : Prop :=
  ∃ evs, Ran s r.2 evs ∧ EndedAs r.1.IsSpi evs ∧
    xferCount evs ≤ x + 2 * s.cfg.deviceCount + r.1.extra ∧
    SameOperands s r.2 ∧ BranchEnds s.cfg s.ctl.iter op s.chain evs r.1 r.2.chain

/-- A run without a failed exchange and without a register write, before a branch goes on. -/
theorem BranchRan.after {op : Operation} {x y : Nat} {s t : State} {r : Verdict × State} {evs : List Event}
    (h : BranchRan op y t r) (hr : Ran s t evs) (hp : AllPassed evs) (hx : xferCount evs + y ≤ x)
    (hc : t.chain = s.chain) (hk : SameOperands s t) : BranchRan op x s r := by
  obtain ⟨evs', kr, ke, kn, kk, kb⟩ := h
  refine ⟨evs ++ evs', hr.trans kr, ke.prepend hp, ?_, hk.trans kk, ?_⟩
  · rw [hr.cfg] at kn
    simp
    omega
  · rw [hr.cfg, hk.1, hc] at kb
    exact kb.prepend evs

theorem finish_counterReset_ran (op : Operation) (x : Nat) (r : TxStatus) (s t : State) (hr : r.isCounterFault = true)
    (hop : op.kind = .read) (hw : Ran s t []) (hk : SameOperands s t)
    (hc : t.chain = { s.chain with tally := if s.chain.status = .complete then s.chain.tally else 0 }) :
    BranchRan op x s (finish (counterReset op.cls r t)) := by
  obtain ⟨evs, kr, ke, kn, kst, kc, kk⟩ := counterReset_ran op.cls r t (isCounterFault_ne_spi hr)
  refine ⟨evs, hw.trans kr, ?_, ?_, hk.trans (SameOperands.ofPhase kk), ?_⟩
  · simpa [finish] using ke
  · simp [finish]; omega
  · have h := BranchEnds.fault (c := s.cfg) (it := s.ctl.iter) (info := s.chain) (evs := evs) r _ hop hr kst
    simp only [finish, kc, hc]
    exact h

theorem reprobe_branchRan (op : Operation) (x t : Nat) (s s1 : State) (hw : Ran s s1 []) (hk : SameOperands s s1)
    (ht : (t = s.chain.tally ∨ t = 0) ∧ (s.chain.status = .singleBreak → t = 0)) (hc : s1.chain = { s.chain with tally := t })
    (hop : op.kind = .read ∨ s.chain.status = .multipleBreak) : BranchRan op x s (reprobe s1) := by
  obtain ⟨evs, kr, ke, kn, kk, kb⟩ := reprobe_ran s1
  refine ⟨evs, hw.trans kr, ke, ?_, hk.trans kk, ?_⟩
  · rw [hw.cfg] at kn; omega
  · rw [hw.cfg, hk.1, hc] at kb
    exact .reprobed t _ _ ht hop kb

/-- The Complete branch (spec R258). -/
theorem completeBranch_ran (op : Operation) (s : State) (hs : s.chain.status = .complete) :
    BranchRan op 1 s (completeBranch op s) := by
  obtain ⟨evs, hr, he, hn, hc, hk, hop⟩ := attempt_ran op s.chain.currentPort s.cfg.deviceCount (s.enter .attemptCurrent)
  have hw : Ran s (s.enter .attemptCurrent) [] := Ran.ofWrite rfl rfl rfl rfl rfl rfl rfl
  have hran := hw.trans hr
  have hops : SameOperands s (attempt op s.chain.currentPort s.cfg.deviceCount (s.enter .attemptCurrent)).2 :=
    SameOperands.ofPhase hk
  unfold completeBranch
  generalize attempt op s.chain.currentPort s.cfg.deviceCount (s.enter .attemptCurrent) = at' at *
  obtain ⟨⟨r, rd⟩, s1⟩ := at'
  simp only [enter_chain, List.nil_append] at hr he hc hk hop hran hops ⊢
  have hread : r ≠ .success → r ≠ .spiError → op.kind = .read := by
    intro h1 h2
    by_contra h
    rcases hop h with h | h <;> contradiction
  cases r with
  | spiError =>
    refine ⟨evs, hran, ⟨fun _ => he.1 rfl, by simp [completeOutcome]⟩, by simp [completeOutcome]; omega, hops, ?_⟩
    have h := BranchEnds.spi (c := s.cfg) (it := s.ctl.iter) (op := op) (info := s.chain) (evs := evs)
    rw [if_pos hs] at h
    simp only [completeOutcome, hc]
    exact h
  | success =>
    have hp := he.2 (by simp)
    have hw2 : Ran s1 ((if op.kind = .command then s1 else
        s1.setCurrentPort (otherPort s1.chain.currentPort)).incCtr op.cls) [] := by
      split <;> exact Ran.ofWrite rfl rfl rfl rfl rfl rfl rfl
    have hran2 := hran.trans hw2
    rw [List.append_nil] at hran2
    refine ⟨evs, hran2, ⟨by simp [completeOutcome], fun _ => hp⟩, by simp [completeOutcome]; omega, ?_, ?_⟩
    · simp only [completeOutcome]
      split <;> exact hops
    · have h := BranchEnds.full (c := s.cfg) (it := s.ctl.iter) (op := op) (info := s.chain) (evs := evs)
        (if op.kind = .read then rd.flat s1.cfg.deviceCount else []) hs
      simp only [completeOutcome]
      rw [← hc] at h ⊢
      by_cases hcmd : op.kind = .command
      · simp only [hcmd, if_true] at h ⊢
        exact h
      · simp only [hcmd, if_false] at h ⊢
        exact h
  | chainBreakError =>
    have hp := he.2 (by simp)
    exact (reprobe_branchRan op 0 s1.chain.tally s1 s1 (Ran.refl _) (SameOperands.ofCtl rfl)
      ⟨.inl rfl, fun h => by rw [hc, hs] at h; cases h⟩ rfl
      (.inl (hread (by simp) (by simp)))).after hran hp (by omega) hc hops
  | porError =>
    have hp := he.2 (by simp)
    exact (finish_counterReset_ran op 0 .porError s1 s1 rfl (hread (by simp) (by simp)) (Ran.refl _)
      (SameOperands.ofCtl rfl) (by rw [hc, if_pos hs])).after hran hp (by omega) hc hops
  | commandCounterError =>
    have hp := he.2 (by simp)
    exact (finish_counterReset_ran op 0 .commandCounterError s1 s1 rfl (hread (by simp) (by simp)) (Ran.refl _)
      (SameOperands.ofCtl rfl) (by rw [hc, if_pos hs])).after hran hp (by omega) hc hops

/-- A success in `SingleBreak` (spec R262). -/
theorem singleSuccess_ran (op : Operation) (dA dB : FrameData) (s : State) (hs : s.chain.status = .singleBreak) :
    BranchRan op 0 s (singleSuccess op dA dB s) := by
  unfold singleSuccess
  simp only
  by_cases ht : s.chain.tally + 1 = s.cfg.dualPortLimit
  · rw [if_pos ht]
    generalize dualData op s dA dB = rd
    generalize hs0 : ((s.incCtr op.cls).setTally 0).enter .tallyProbe = s0
    have hw : Ran s s0 [] := by rw [← hs0]; exact Ran.ofWrite rfl rfl rfl rfl rfl rfl rfl
    have hops : SameOperands s s0 := by rw [← hs0]; exact SameOperands.ofPhase rfl
    have hc0 : s0.chain = { s.chain with ctr := incCounters op.cls s.chain.ctr, tally := 0 } := by rw [← hs0]; rfl
    obtain ⟨evs, hr, he, hn, hc, hk, hf⟩ := runProbe_ran s0
    unfold tallyProbe
    rw [hs0]
    generalize runProbe s0 = p at *
    obtain ⟨res, s1⟩ := p
    simp only at hr he hc hk hf
    rw [hw.cfg] at hn hf
    have hran := hw.trans hr
    rw [List.nil_append] at hran
    have hop1 := hops.trans (SameOperands.ofProbe hk)
    cases res with
    | spiError =>
      refine ⟨evs, hran, ⟨fun _ => he.1 rfl, by simp⟩, by simp; omega, hop1, ?_⟩
      simp only [hc, hc0]
      exact .limitAborted hs ht
    | found cs a b pf =>
      obtain ⟨rfl, ha, hb, -, -, hin'⟩ := hf cs a b pf rfl
      have hin : ProbedIn s.cfg evs := hin'
      have hp : AllPassed evs := he.2 (by simp)
      have hch : (s1.commit (classify a b s.cfg.deviceCount) a b).chain =
          { s.chain with
            ctr := incCounters op.cls s.chain.ctr
            status := classify a b s.cfg.deviceCount
            availA := a
            availB := b
            tally := 0 } := by
        simp [State.commit, ChainInfo.commit, State.setChain, hc, hc0]
      have hran2 : Ran s (s1.commit (classify a b s.cfg.deviceCount) a b) evs := by
        have := hran.trans (Ran.ofWrite (t := s1.commit (classify a b s.cfg.deviceCount) a b) rfl rfl rfl rfl rfl rfl rfl)
        rwa [List.append_nil] at this
      have hop2 : SameOperands s (s1.commit (classify a b s.cfg.deviceCount) a b) := hop1
      simp only
      generalize s1.commit (classify a b s.cfg.deviceCount) a b = s2 at *
      unfold tallyOutcome
      by_cases hfault : pf.isCounterFault = true
      · obtain ⟨evs', kr, ke, kn, kst, kc, kk⟩ := counterReset_ran .shared pf s2 (isCounterFault_ne_spi hfault)
        rw [if_pos hfault]
        refine ⟨evs ++ evs', hran2.trans kr, ?_, ?_, hop2.trans (SameOperands.ofPhase kk), ?_⟩
        · simpa [finish] using ke.prepend hp
        · simp [finish]; omega
        · simp only [finish, kc, hch]
          exact .limitFault a b pf _ hs ht ⟨ha, hb, hin.append evs'⟩ hfault kst
      · rw [if_neg hfault]
        refine ⟨evs, hran2, ⟨by simp, fun _ => hp⟩, by simp; omega, hop2, ?_⟩
        simp only [hch]
        exact .limitPassed a b rd hs ht ⟨ha, hb, hin⟩
  · rw [if_neg ht]
    refine ⟨[], Ran.ofWrite rfl rfl rfl rfl rfl rfl rfl, ⟨by simp, fun _ => allPassed_nil⟩, by simp [xferCount],
      SameOperands.ofCtl rfl, ?_⟩
    exact .counted (dualData op s dA dB) hs ht

/-- A failed dual-port evaluation comes from a READ. -/
theorem worse_read {op : Operation} {rA rB : TxStatus} (hA : op.kind ≠ .read → rA = .success)
    (hB : op.kind ≠ .read → rB = .success) (h : worse rA rB ≠ .success) : op.kind = .read := by
  by_contra hne
  rw [hA hne, hB hne] at h
  exact h rfl

/-- The evaluation of the dual-port branch (spec R261). -/
theorem dualEvaluate_ran (op : Operation) (rA : TxStatus) (dA : FrameData) (rB : TxStatus) (dB : FrameData) (s : State)
    (hs : s.chain.status ≠ .complete) (hA : op.kind ≠ .read → rA = .success) (hB : op.kind ≠ .read → rB = .success) :
    BranchRan op 0 s (dualEvaluate op rA dA rB dB s) := by
  have hread := worse_read hA hB
  unfold dualEvaluate
  generalize worse rA rB = r at *
  have hw : Ran s (s.enter .evaluate) [] := Ran.ofWrite rfl rfl rfl rfl rfl rfl rfl
  have hw0 : Ran s ((s.enter .evaluate).setTally 0) [] := Ran.ofWrite rfl rfl rfl rfl rfl rfl rfl
  have hops : SameOperands s (s.enter .evaluate) := SameOperands.ofPhase rfl
  by_cases hf : r.isCounterFault = true
  · simp only [hf, if_true]
    exact finish_counterReset_ran op 0 r s _ hf (hread (by rintro rfl; simp [TxStatus.isCounterFault] at hf)) hw0 hops
      (by simp [hs, State.setTally, State.enter])
  · simp only [hf]
    by_cases hb : r = .chainBreakError
    · simp only [hb]
      exact reprobe_branchRan op 0 0 s _ hw0 hops ⟨.inr rfl, fun _ => rfl⟩ rfl (.inl (hread (by simp [hb])))
    · simp only [hb, if_false]
      by_cases h1 : (s.enter .evaluate).chain.status = .singleBreak
      · rw [if_neg (by simp), if_pos h1]
        exact (singleSuccess_ran op dA dB _ h1).after hw allPassed_nil (by simp [xferCount]) rfl hops
      · rw [if_neg (by simp), if_neg h1]
        refine reprobe_branchRan op 0 s.chain.tally s _ hw hops ⟨.inl rfl, fun h => absurd h h1⟩ rfl (.inr ?_)
        simp only [enter_chain] at h1
        cases h : s.chain.status <;> simp_all

/-- A failed attempt of the dual-port branch (spec R260, R261). -/
theorem dualAborted_ran (op : Operation) (x : Nat) {s t : State} {evs : List Event} (hr : Ran s t evs)
    (he : EndsInFailure evs) (hx : xferCount evs ≤ x) (hk : SameOperands s t) (hc : t.chain = s.chain)
    (hs : s.chain.status ≠ .complete) : BranchRan op x s (dualAborted t) := by
  refine ⟨evs, ?_, ⟨fun _ => he, fun h => absurd ⟨_, rfl⟩ h⟩, by simp [dualAborted]; omega, hk, ?_⟩
  · simpa [dualAborted] using hr.trans (Ran.ofWrite (t := t.setTally 0) rfl rfl rfl rfl rfl rfl rfl)
  · have h := BranchEnds.spi (c := s.cfg) (it := s.ctl.iter) (op := op) (info := s.chain) (evs := evs)
    rw [if_neg hs] at h
    simp only [dualAborted, State.setTally, hc]
    exact h

/-- The dual-port branch (spec R260). -/
theorem dualBranch_ran (op : Operation) (s : State) (hs : s.chain.status ≠ .complete) :
    BranchRan op 2 s (dualBranch op s) := by
  obtain ⟨evsA, hrA, heA, hnA, hcA, hkA, hopA⟩ := dualAttempt_ran op .A (s.enter .attemptA)
  have hwA : Ran s (s.enter .attemptA) [] := Ran.ofWrite rfl rfl rfl rfl rfl rfl rfl
  have hranA := hwA.trans hrA
  have hopsA : SameOperands s (dualAttempt op .A (s.enter .attemptA)).2 := SameOperands.ofPhase hkA
  unfold dualBranch
  generalize dualAttempt op .A (s.enter .attemptA) = atA at *
  obtain ⟨⟨rA, dA⟩, s1⟩ := atA
  simp only [enter_chain, List.nil_append] at hrA heA hcA hkA hopA hranA hopsA ⊢
  by_cases hA : rA = .spiError
  · rw [if_pos hA]
    exact dualAborted_ran op 2 hranA (heA.1 hA) (by omega) hopsA hcA hs
  · rw [if_neg hA]
    have hpA := heA.2 hA
    obtain ⟨evsB, hrB, heB, hnB, hcB, hkB, hopB⟩ := dualAttempt_ran op .B (s1.enter .attemptB)
    have hwB : Ran s1 (s1.enter .attemptB) [] := Ran.ofWrite rfl rfl rfl rfl rfl rfl rfl
    have hranB := hwB.trans hrB
    have hopsB : SameOperands s1 (dualAttempt op .B (s1.enter .attemptB)).2 := SameOperands.ofPhase hkB
    generalize dualAttempt op .B (s1.enter .attemptB) = atB at *
    obtain ⟨⟨rB, dB⟩, s2⟩ := atB
    simp only [enter_chain, List.nil_append] at hrB heB hcB hkB hopB hranB hopsB ⊢
    have hran := hranA.trans hranB
    by_cases hB : rB = .spiError
    · rw [if_pos hB]
      exact dualAborted_ran op 2 hran ((heB.1 hB).prepend hpA) (by simp; omega) (hopsA.trans hopsB) (hcB.trans hcA) hs
    · rw [if_neg hB]
      have hpB := heB.2 hB
      refine (dualEvaluate_ran op rA dA rB dB s2 (by rw [hcB, hcA]; exact hs) ?_ ?_).after hran (hpA.append hpB)
        (by simp; omega) (by rw [hcB, hcA]) (hopsA.trans hopsB)
      · intro h; exact (hopA h).resolve_right hA
      · intro h; exact (hopB h).resolve_right hB

/-- One iteration of the outer loop (spec R257). -/
theorem iteration_ran (op : Operation) (s : State) : BranchRan op 2 s (iteration op s) := by
  unfold iteration
  split
  · rename_i h
    exact (completeBranch_ran op s h).after (Ran.refl s) allPassed_nil (by simp [xferCount]) rfl (SameOperands.ofCtl rfl)
  · rename_i h
    exact dualBranch_ran op s h

/-- Iteration 2 never asks for a third (spec R257, R264). -/
theorem iteration_second (op : Operation) (s : State) (h : s.ctl.iter = .second) : (iteration op s).1 ≠ .retry := by
  obtain ⟨evs, -, -, -, -, hb⟩ := iteration_ran op s
  rw [h] at hb
  intro hr
  rw [hr] at hb
  generalize (iteration op s).2.chain = info at hb
  cases hb with
  | reprobed t _ _ ht hop hrep =>
    cases hrep with
    | retry a b hp hit hcs => cases hit

/-! ## The dual-port branch on queued answers (spec R260) -/

/-- An admitted answer is no transport failure. -/
theorem attemptResult_ne_spi (c : Params) (snap : Counters) (op : Operation) (P : Port) (k : Nat) (rx : Bytes) :
    (attemptResult c snap op P k rx).1 ≠ .spiError := by
  unfold attemptResult
  rcases op with ⟨_ | _ | _, _, _, _⟩
  · simp
  · simp
  · exact frameStatus_ne_spi _ _ _ _ _ _

/-- What the dual-port branch makes of port `P`, whose answer would be `rx`. -/
def dualResult (c : Params) (info : ChainInfo) (snap : Counters) (op : Operation) (P : Port) (rx : Bytes) :
    TxStatus × FrameData :=
  if 0 < info.avail P then attemptResult c snap op P (info.avail P) rx else (.success, [])

/-- The answer port `P` uses up. -/
def dualAnswers (info : ChainInfo) (P : Port) (rx : Bytes) : List Answer :=
  if 0 < info.avail P then [.bytes rx] else []

/-- The events of the attempt on port `P`. -/
def dualEvents (c : Params) (info : ChainInfo) (op : Operation) (P : Port) (rx : Bytes) : List Event :=
  if 0 < info.avail P then exchangeEvents P (attemptTx c op P (info.avail P)) (.bytes rx) else []

theorem dualAttempt_answered {op : Operation} {P : Port} {s : State} {rx : Bytes} {rest : List Answer}
    (ha : s.answers = dualAnswers s.chain P rx ++ rest)
    (hl : 0 < s.chain.avail P → rx.length = (attemptTx s.cfg op P (s.chain.avail P)).length) :
    ∃ t, dualAttempt op P s = (dualResult s.cfg s.chain s.ctl.expSnap op P rx, t) ∧
      t.trace = s.trace ++ dualEvents s.cfg s.chain op P rx ∧ t.answers = rest ∧ t.cfg = s.cfg ∧ t.host = s.host ∧
      t.chain = s.chain ∧ t.ctl = s.ctl ∧ (s.cs = CsLines.idle → t.cs = CsLines.idle) := by
  unfold dualAttempt dualResult dualEvents
  unfold dualAnswers at ha
  by_cases h : 0 < s.chain.avail P
  · simp only [if_pos h] at ha ⊢
    rw [attempt_answered (by simpa using ha) (hl h)]
    exact ⟨_, rfl, rfl, rfl, rfl, rfl, rfl, rfl, fun hcs => by simp [hcs]⟩
  · simp only [if_neg h] at ha ⊢
    exact ⟨s, rfl, by simp, by simpa using ha, rfl, rfl, rfl, rfl, id⟩

/-- The branch on queued answers of the right lengths comes to its evaluation. -/
theorem dualBranch_answered {op : Operation} {s : State} {rA rB : Bytes} {rest : List Answer}
    (ha : s.answers = dualAnswers s.chain .A rA ++ (dualAnswers s.chain .B rB ++ rest))
    (hA : 0 < s.chain.availA → rA.length = (attemptTx s.cfg op .A s.chain.availA).length)
    (hB : 0 < s.chain.availB → rB.length = (attemptTx s.cfg op .B s.chain.availB).length) :
    ∃ t, dualBranch op s = dualEvaluate op
        (dualResult s.cfg s.chain s.ctl.expSnap op .A rA).1 (dualResult s.cfg s.chain s.ctl.expSnap op .A rA).2
        (dualResult s.cfg s.chain s.ctl.expSnap op .B rB).1 (dualResult s.cfg s.chain s.ctl.expSnap op .B rB).2 t ∧
      t.trace = s.trace ++ dualEvents s.cfg s.chain op .A rA ++ dualEvents s.cfg s.chain op .B rB ∧
      t.answers = rest ∧ t.cfg = s.cfg ∧ t.host = s.host ∧ t.chain = s.chain ∧ SameOperands s t ∧
      (s.cs = CsLines.idle → t.cs = CsLines.idle) := by
  have hne : ∀ P rx, (dualResult s.cfg s.chain s.ctl.expSnap op P rx).1 ≠ .spiError := by
    intro P rx
    unfold dualResult
    split
    · exact attemptResult_ne_spi _ _ _ _ _ _
    · simp
  obtain ⟨t, h1, h2, h3, h4, h5, h6, h7, h8⟩ :=
    dualAttempt_answered (op := op) (P := .A) (s := s.enter .attemptA) (rx := rA) ha hA
  obtain ⟨u, k1, k2, k3, k4, k5, k6, k7, k8⟩ :=
    dualAttempt_answered (op := op) (P := .B) (s := t.enter .attemptB) (rx := rB) (rest := rest)
      (by rw [enter_answers, enter_chain, h3, h6, enter_chain]) (by rw [enter_chain, enter_cfg, h6, h4]; exact hB)
  refine ⟨u, ?_, ?_, k3, k4.trans h4, k5.trans h5, k6.trans h6, ?_, fun h => k8 (h8 h)⟩
  · simp only [enter_cfg, enter_chain, enter_ctl_expSnap] at h1 h4 h6 k1
    rw [h4, h6, h7, enter_ctl_expSnap] at k1
    unfold dualBranch
    rw [h1]
    simp only
    rw [if_neg (hne .A rA), k1]
    simp only
    rw [if_neg (hne .B rB)]
  · rw [k2, enter_trace, enter_cfg, enter_chain, h2, h4, h6]
    rfl
  · exact ⟨by rw [k7]; simp [h7], by rw [k7]; simp [h7]⟩

/-! ## The whole operation (spec R257) -/

/-- Every way an operation can end: in its first iteration, or in its second after a re-probe that found another chain
status than `MultipleBreak`. -/
inductive OperationEnds (c : Params) (op : Operation) (info : ChainInfo) (evs : List Event) (st : TxStatus) (rd : Bytes)
    (info' : ChainInfo) : Prop where
  /-- The first iteration ended the request. -/
  | once (h : BranchEnds c .first op info evs (.done st rd) info')
  /-- The first iteration asked for a retry, and the second ended the request. -/
  | twice (mid : ChainInfo) (pre post : List Event) (hevs : evs = pre ++ post)
      (h1 : BranchEnds c .first op info pre .retry mid)
      (h2 : BranchEnds c .second op mid post (.done st rd) info')

/-- What COMMAND, WRITE and READ do before their response. -/
theorem operate_ran (op : Operation) (s : State) :
    ∃ evs, Ran s (operate op s).2 evs ∧ EndedAs ((operate op s).1.1 = .spiError) evs ∧
      xferCount evs ≤ 2 * (2 + 2 * s.cfg.deviceCount) + 2 ∧
      OperationEnds s.cfg op s.chain evs (operate op s).1.1 (operate op s).1.2 (operate op s).2.chain := by
  obtain ⟨evs1, hr1, he1, hn1, hk1, hb1⟩ := iteration_ran op s.latchCounters
  have hw : Ran s s.latchCounters [] := Ran.ofWrite rfl rfl rfl rfl rfl rfl rfl
  have hran1 := hw.trans hr1
  unfold operate
  generalize iteration op s.latchCounters = it1 at *
  obtain ⟨v1, s1⟩ := it1
  simp only [latchCounters_cfg, latchCounters_ctl_iter, latchCounters_chain, List.nil_append] at hn1 hb1 hran1 he1 hk1 ⊢
  cases v1 with
  | done st rd =>
    refine ⟨evs1, hran1, ?_, ?_, .once hb1⟩
    · simpa using he1
    · simp only [Verdict.extra_done] at hn1; omega
  | retry =>
    have hw2 : Ran s1 (s1.setIter .second) [] := Ran.ofWrite rfl rfl rfl rfl rfl rfl rfl
    obtain ⟨evs2, hr2, he2, hn2, hk2, hb2⟩ := iteration_ran op (s1.setIter .second)
    have hne := iteration_second op (s1.setIter .second) rfl
    have hran2 := hran1.trans (hw2.trans hr2)
    simp only
    generalize iteration op (s1.setIter .second) = it2 at *
    obtain ⟨v2, s2⟩ := it2
    have hg : (s1.setIter .second).cfg = s.cfg := hran1.cfg
    rw [hg] at hn2 hb2
    simp only [setIter_ctl_iter, setIter_chain] at hb2
    cases v2 with
    | retry => exact absurd rfl hne
    | done st rd =>
      refine ⟨evs1 ++ evs2, hran2, ?_, ?_, .twice s1.chain evs1 evs2 rfl hb1 hb2⟩
      · have := he2.prepend (he1.2 (by simp))
        simpa [lastVerdict] using this
      · simp only [Verdict.extra_done, Verdict.extra_retry] at hn1 hn2
        simp
        omega

end Sys2Proof.Machine
end

