-- ==== Sys2Proof/Laws/Scripts.lean ====
section
/-! SUPPORT. The probe and the counter-reset broadcast on queued answers: the events they emit, the answers they use up
and what they find. -/

namespace Sys2Proof.Machine

/-! ## Scripted scans (43_topology.md R222, R225) -/

/-- The events of a port's scan from count `k` on, answered by a script. -/
def scanEvents (c : Params) (P : Port) (script : List Bytes) (k : Nat) : List Event :=
  (List.range script.length).flatMap fun j =>
    exchangeEvents P (buildReadTx c c.cmdRdsid (k + j)) (.bytes (script.getD j []))

theorem scanEvents_cons (c : Params) (P : Port) (x : Bytes) (xs : List Bytes) (k : Nat) :
    scanEvents c P (x :: xs) k =
      exchangeEvents P (buildReadTx c c.cmdRdsid k) (.bytes x) ++ scanEvents c P xs (k + 1) := by
  simp only [scanEvents, List.length_cons, List.range_succ_eq_map, List.flatMap_cons, List.flatMap_map]
  congr 1
  apply List.flatMap_congr
  intro j _
  simp [Nat.add_assoc, Nat.add_comm 1 j]

/-- A scan makes one exchange per frame of its script. -/
theorem scanEvents_count (c : Params) (P : Port) (script : List Bytes) (k : Nat) :
    xferCount (scanEvents c P script k) = script.length := by
  induction script generalizing k with
  | nil => rfl
  | cons x xs ih => rw [scanEvents_cons, xferCount_append, ih, exchangeEvents_count, List.length_cons, Nat.add_comm]

theorem scanEvents_quiet (c : Params) (P : Port) (script : List Bytes) (k : Nat) :
    ∀ e ∈ scanEvents c P script k, e.isResponse = false := by
  intro e he
  simp only [scanEvents, exchangeEvents, List.mem_flatMap] at he
  obtain ⟨j, _, he⟩ := he
  simp at he
  rcases he with rfl | rfl | rfl <;> rfl

/-- The scan of a port from count `k` on, answered by a script whose frames pass up to `a` slots: it finds `a`, and its
counter fault is the worst of the passing frames. -/
theorem scanPort_scripted (exp : Nat → Option (BitVec 6)) (P : Port) (rest : List Answer) :
    ∀ (left : Nat) (script : List Bytes) (s : State) (a k : Nat),
      s.ctl.probe.port = P → s.ctl.probe.count = k → 1 ≤ k → left + k = s.cfg.deviceCount + 1 → k ≤ a + 1 →
      a ≤ s.cfg.deviceCount → script.length = (if a < s.cfg.deviceCount then a + 1 else a) + 1 - k →
      (∀ j < script.length, (script.getD j []).length = 4 + 8 * (k + j) ∧
        frameCrcFails s.cfg (script.getD j []) (k + j) = decide (k + j = a + 1)) →
      s.ctl.probe.av P = s.cfg.deviceCount → s.answers = script.map Answer.bytes ++ rest →
      ∃ t, scanPort exp left s = (true, t) ∧ t.trace = s.trace ++ scanEvents s.cfg P script k ∧ t.answers = rest ∧
        t.cfg = s.cfg ∧ t.host = s.host ∧ t.chain = s.chain ∧ SameButProbe s t ∧ t.ctl.probe.port = P ∧
        t.ctl.probe.av P = a ∧ (∀ Q, Q ≠ P → t.ctl.probe.av Q = s.ctl.probe.av Q) ∧
        t.ctl.probe.pf = (List.range (a + 1 - k)).foldl (fun acc j =>
          worse acc (frameStatus s.cfg (script.getD j []) P s.cfg.deviceCount (k + j) exp)) s.ctl.probe.pf ∧
        (s.cs = CsLines.idle → t.cs = CsLines.idle) := by
  intro left
  induction left with
  | zero =>
    intro script s a k hp hk h1 hl hka han hs hf hav hans
    have ha : a = s.cfg.deviceCount := by omega
    rw [if_neg (by omega)] at hs
    have : script = [] := List.length_eq_zero_iff.1 (by omega)
    subst this
    refine ⟨s, rfl, by simp [scanEvents], by simpa using hans, rfl, rfl, rfl, rfl, hp, by omega, fun _ _ => rfl, ?_, id⟩
    rw [show a + 1 - k = 0 by omega]
    rfl
  | succ left ih =>
    intro script s a k hp hk h1 hl hka han hs hf hav hans
    have hne : script ≠ [] := by
      rintro rfl
      simp at hs
      split at hs <;> omega
    obtain ⟨x, xs, rfl⟩ := List.exists_cons_of_ne_nil hne
    have hx := hf 0 (by simp)
    simp at hx
    rw [scanPort]
    simp only [hp, hk]
    rw [transceive_answered (rx := x) (rest := xs.map Answer.bytes ++ rest) (by simpa using hans) (by simp [hx.1])]
    simp only
    by_cases hka' : k = a + 1
    · have hcr : frameCrcFails s.cfg x k = true := by rw [hx.2]; simp [hka']
      have hxs : xs = [] := by
        apply List.length_eq_zero_iff.1
        simp at hs
        split at hs <;> omega
      subst hxs
      rw [if_pos hcr]
      refine ⟨_, rfl, by simp [scanEvents_cons]; simp [scanEvents], by simp, rfl, rfl, rfl, rfl, by simp [hp],
        by simp [hp, hk]; omega, ?_, ?_, ?_⟩
      · intro Q hQ
        simp [hp, hQ]
      · rw [show a + 1 - k = 0 by omega]
        simp
      · intro h
        simp [h]
    · have hcr : frameCrcFails s.cfg x k = false := by rw [hx.2]; simp [hka']
      rw [if_neg (by simp [hcr])]
      generalize hs2 : State.goOnScan _ _ = s2
      have e1 : s2.cfg = s.cfg := by rw [← hs2]; rfl
      have e2 : s2.ctl.probe = { s.ctl.probe with
          pf := worse s.ctl.probe.pf (frameStatus s.cfg x P s.cfg.deviceCount k exp)
          count := k + 1 } := by
        rw [← hs2]
        simp [hk]
      obtain ⟨t, r1, r2, r3, r4, r5, r6, r7, r8, r9, r10, r11, r12⟩ := ih xs s2 a (k + 1) (by rw [e2]; exact hp)
        (by rw [e2]) (by omega) (by rw [e1]; omega) (by omega) (by rw [e1]; omega)
        (by rw [e1]; simp at hs; split at hs <;> simp [*] <;> omega)
        (by
          rw [e1]
          intro j hj
          have := hf (j + 1) (by simpa using hj)
          simp at this
          rw [Nat.add_assoc, Nat.add_comm 1 j]
          exact this)
        (by rw [e1, e2, ← hav]; cases P <;> rfl) (by rw [← hs2]; rfl)
      refine ⟨t, r1, ?_, r3, r4.trans e1, r5.trans (by rw [← hs2]; rfl), r6.trans (by rw [← hs2]; rfl), ?_, r8, r9,
        ?_, ?_, ?_⟩
      · rw [r2, e1, scanEvents_cons, ← hs2]
        simp
      · exact SameButProbe.trans (by rw [← hs2]; rfl) r7
      · intro Q hQ
        rw [r10 Q hQ, e2]
        cases Q <;> rfl
      · rw [r11, e2, e1, show a + 1 - k = (a + 1 - (k + 1)) + 1 by omega, List.range_succ_eq_map, List.foldl_cons,
          List.foldl_map]
        simp [Nat.add_assoc, Nat.add_comm 1]
      · intro h
        apply r12
        rw [← hs2]
        simp [h]

/-- A script, read from count 1 on. -/
theorem ScanScript.fromOne {c : Params} {a : Nat} {script : List Bytes} (h : ScanScript c a script) :
    script.length = (if a < c.deviceCount then a + 1 else a) + 1 - 1 ∧
    ∀ j < script.length, (script.getD j []).length = 4 + 8 * (1 + j) ∧
      frameCrcFails c (script.getD j []) (1 + j) = decide (1 + j = a + 1) := by
  refine ⟨by rw [h.2.1]; omega, ?_⟩
  intro j hj
  have := h.2.2 j hj
  rw [Nat.add_comm 1 j]
  refine ⟨this.1, ?_⟩
  rw [this.2]
  simp

/-- A probe answered by a script for each port finds the two counts, their classification and the worst counter fault of
the passing frames (spec R225). -/
theorem runProbe_scripted (s : State) (a b : Nat) (sa sb : List Bytes) (rest : List Answer)
    (ha : ScanScript s.cfg a sa) (hb : ScanScript s.cfg b sb)
    (hans : s.answers = (sa ++ sb).map Answer.bytes ++ rest) :
    ∃ t, runProbe s = (.found (classify a b s.cfg.deviceCount) a b
        (scriptFault s.cfg .B (expected s.cfg .shared s.chain.ctr) b sb
          (scriptFault s.cfg .A (expected s.cfg .shared s.chain.ctr) a sa .success)), t) ∧
      t.trace = s.trace ++ scanEvents s.cfg .A sa 1 ++ scanEvents s.cfg .B sb 1 ∧ t.answers = rest ∧ t.cfg = s.cfg ∧
      t.host = s.host ∧ t.chain = s.chain ∧ SameButProbe s t ∧ (s.cs = CsLines.idle → t.cs = CsLines.idle) := by
  obtain ⟨ha1, ha2⟩ := ha.fromOne
  obtain ⟨hb1, hb2⟩ := hb.fromOne
  unfold runProbe
  simp only
  generalize hs0 : (s.setProbe { s.ctl.probe with pf := .success }).startScan .A = s0
  have hg0 : s0.cfg = s.cfg := by rw [← hs0]; rfl
  have hp0 : s0.ctl.probe = { port := .A, count := 1, avA := s.cfg.deviceCount, avB := s.ctl.probe.avB,
                              pf := .success } := by
    rw [← hs0]
    rfl
  obtain ⟨t, r1, r2, r3, r4, r5, r6, r7, r8, r9, r10, r11, r12⟩ :=
    scanPort_scripted (expected s.cfg .shared s.chain.ctr) .A (sb.map Answer.bytes ++ rest) s.cfg.deviceCount sa s0 a 1
      (by rw [hp0]) (by rw [hp0]) (le_refl _) (by rw [hg0]) (by omega) (by rw [hg0]; exact ha.1)
      (by rw [hg0]; exact ha1) (by rw [hg0]; exact ha2) (by rw [hp0, hg0]; rfl)
      (by rw [← hs0]; show s.answers = _; rw [hans]; simp)
  rw [r1]
  simp only
  generalize hs1 : t.startScan .B = s1
  have hg1 : s1.cfg = s.cfg := by rw [← hs1]; exact r4.trans hg0
  have hp1 : s1.ctl.probe = { port := .B, count := 1, avA := a, avB := s.cfg.deviceCount, pf := t.ctl.probe.pf } := by
    rw [← hs1]
    simp only [startScan_ctl_probe, ProbeState.setAv, r4, hg0]
    have : t.ctl.probe.avA = a := r9
    rw [this]
  obtain ⟨u, q1, q2, q3, q4, q5, q6, q7, q8, q9, q10, q11, q12⟩ :=
    scanPort_scripted (expected s.cfg .shared s.chain.ctr) .B rest s.cfg.deviceCount sb s1 b 1
      (by rw [hp1]) (by rw [hp1]) (le_refl _) (by rw [hg1]) (by omega) (by rw [hg1]; exact hb.1)
      (by rw [hg1]; exact hb1) (by rw [hg1]; exact hb2) (by rw [hp1, hg1]; rfl) (by rw [← hs1]; exact r3)
  rw [q1]
  have hA : u.ctl.probe.avA = a := by
    have := q10 .A (by simp)
    rw [hp1] at this
    exact this
  have hB : u.ctl.probe.avB = b := q9
  refine ⟨u, ?_, ?_, q3, q4.trans hg1, ?_, ?_, ?_, ?_⟩
  · simp only [hA, hB, q11, hp1, r11, hp0, hg0, hg1, scriptFault, Nat.add_sub_cancel]
    congr 2
    simp only [Nat.add_comm 1]
  · rw [q2, hg1, ← hs1]
    simp only [startScan_trace, r2, hg0]
    rw [← hs0]
    rfl
  · rw [q5, ← hs1, startScan_host, r5, ← hs0]
    rfl
  · rw [q6, ← hs1, startScan_chain, r6, ← hs0]
    rfl
  · refine SameButProbe.trans (t := s1) (SameButProbe.trans (t := t) ?_ ?_) q7
    · exact SameButProbe.trans (t := s0) (by rw [← hs0]; rfl) r7
    · rw [← hs1]
      rfl
  · intro h
    apply q12
    rw [← hs1]
    apply r12
    rw [← hs0]
    exact h

/-! ## The counter-reset broadcast on queued answers (44_transactor.md R253) -/

/-- The events of broadcasts that are all answered. -/
def broadcastEvents (c : Params) (ports : List Port) (replies : List Bytes) : List Event :=
  (List.zipWith (fun P rx => exchangeEvents P (buildCommandFrame c c.cmdRstcc) (.bytes rx)) ports replies).flatten

/-- Every port answers. -/
theorem broadcast_answered (ports : List Port) (replies : List Bytes) (rest : List Answer) (s : State)
    (hl : replies.length = ports.length) (h4 : ∀ rx ∈ replies, rx.length = 4)
    (ha : s.answers = replies.map Answer.bytes ++ rest) :
    (broadcast ports s).1 = true ∧ (broadcast ports s).2.trace = s.trace ++ broadcastEvents s.cfg ports replies ∧
      (broadcast ports s).2.answers = rest := by
  induction ports generalizing replies s with
  | nil =>
    simp at hl
    subst hl
    simp at ha
    simp [broadcast, broadcastEvents, ← ha]
  | cons P ports ih =>
    cases replies with
    | nil => simp at hl
    | cons x replies =>
      rw [broadcast, transceive_answered (rx := x) (rest := replies.map Answer.bytes ++ rest) (by simpa using ha)
        (by simp [h4 x (by simp)])]
      simp only
      generalize hs1 : ({ s with
        cs := s.cs.set P .deasserted
        answers := replies.map Answer.bytes ++ rest
        trace := s.trace ++ exchangeEvents P (buildCommandFrame s.cfg s.cfg.cmdRstcc) (.bytes x) } : State) = s1
      obtain ⟨g1, g2, g3⟩ := ih replies s1 (by simpa using hl) (fun r hr => h4 r (by simp [hr])) (by rw [← hs1])
      refine ⟨g1, ?_, g3⟩
      rw [g2, ← hs1]
      simp [broadcastEvents]

/-- The port after the answered ones fails, and nothing follows. -/
theorem broadcast_failed (ports : List Port) (replies : List Bytes) (x : Answer) (rest : List Answer) (s : State)
    (hl : replies.length < ports.length) (h4 : ∀ rx ∈ replies, rx.length = 4)
    (hx : replyOf (buildCommandFrame s.cfg s.cfg.cmdRstcc) x = none)
    (ha : s.answers = replies.map Answer.bytes ++ x :: rest) :
    (broadcast ports s).1 = false ∧
      (broadcast ports s).2.trace = s.trace ++ broadcastEvents s.cfg ports replies ++
        exchangeEvents (ports.getD replies.length .A) (buildCommandFrame s.cfg s.cfg.cmdRstcc) x ∧
      (broadcast ports s).2.answers = rest := by
  induction ports generalizing replies s with
  | nil => simp at hl
  | cons P ports ih =>
    cases replies with
    | nil =>
      rw [broadcast, transceive_queued (a := x) (rest := rest) (by simpa using ha), hx]
      simp [broadcastEvents]
    | cons y replies =>
      rw [broadcast, transceive_answered (rx := y) (rest := replies.map Answer.bytes ++ x :: rest) (by simpa using ha)
        (by simp [h4 y (by simp)])]
      simp only
      generalize hs1 : ({ s with
        cs := s.cs.set P .deasserted
        answers := replies.map Answer.bytes ++ x :: rest
        trace := s.trace ++ exchangeEvents P (buildCommandFrame s.cfg s.cfg.cmdRstcc) (.bytes y) } : State) = s1
      obtain ⟨g1, g2, g3⟩ := ih replies s1 (by simpa using hl) (fun r hr => h4 r (by simp [hr]))
        (by rw [← hs1]; exact hx) (by rw [← hs1])
      refine ⟨g1, ?_, g3⟩
      rw [g2, ← hs1]
      simp [broadcastEvents]

end Sys2Proof.Machine
end

