-- ==== Sys2Proof/Tests/Slice0.lean ====
section
/-! SUPPORT. Tests on small states, and for each statement with hypotheses a concrete input that meets them. The
expected results are those of spec/95_test_vectors.md; each test names its vector. -/

namespace Sys2Proof.Tests

open Sys2Proof.Machine

-- One test after another: many kernel evaluations at once ask for more threads than a memory limit admits.
set_option Elab.async false

/-! ## Small states -/

/-- The default parameters with another chain length. -/
def cfgN (n : Nat) : Params := { Params.default with deviceCount := n }

/-- ChainInfo written as the vectors write it: status, avail, current port, counters, tally. -/
def info (cs : ChainStatus) (a b : Nat) (cur : Port) (cell pack : BitVec 6) (tally : Nat) : ChainInfo :=
  { status := cs, availA := a, availB := b, currentPort := cur, ctr := { cell := cell, pack := pack }, tally := tally }

/-- A block of `n` devices with given registers and given answers to come. -/
def block (n : Nat) (ci : ChainInfo) (answers : List Answer) : State :=
  { State.resetOf (cfgN n) with chain := ci, answers := answers }

/-- The reset block of `n` devices with given answers to come. -/
def fresh (n : Nat) (answers : List Answer) : State := { State.resetOf (cfgN n) with answers := answers }

/-- The register frame of device `i`'s serial-ID payload with the PEC bytes of the vectors' table. -/
def slot (i hi lo : Byte) : Bytes := [0x5A, 0, 0, 0, 0, i, hi, lo]

/-- The payload of `slot`. -/
def sid (i : Byte) : Bytes := [0x5A, 0, 0, 0, 0, i]

/-- Four filler bytes, where an answer overlaps the command frame. -/
def head : Bytes := [0xFF, 0xFF, 0xFF, 0xFF]

/-- The slot of a device that does not answer. -/
def garbage : Bytes := [0xFF, 0xFF, 0xFF, 0xFF, 0xFF, 0xFF, 0xFF, 0xFF]

/-- An answer made of slots. -/
def ans (slots : Bytes) : Answer := .bytes (head ++ slots)

/-- The state an outcome goes on in. -/
def after : Host.Outcome State Fault Refusal → Option State
  | .next t => some t
  | _ => none

/-- The next state of an instruction. -/
def nextOf (i : Instr) (s : State) : State := (after (exec i s)).getD s

/-- The events of an instruction run from a state without events, the response left out. -/
def evsOf (i : Instr) (s : State) : List Event := (nextOf i s).trace.dropLast

/-- The response of an instruction. -/
def respOf (i : Instr) (s : State) : Response :=
  match (nextOf i s).trace.getLast? with
  | some (.response r) => r
  | _ => ⟨6, 3, 0, 0, [], 0⟩

/-- The exchanges of an event list: what was sent. -/
def sent : List Event → List Bytes
  | [] => []
  | .xfer tx _ :: rest => tx :: sent rest
  | _ :: rest => sent rest

/-- The instruction was answered, with `evsOf` and `respOf`. -/
abbrev Serves (i : Instr) (s : State) : Prop := Answered s (nextOf i s) (evsOf i s) (respOf i s)

/-- Every instruction has a next state. -/
theorem exec_eq_nextOf (i : Instr) (s : State) : exec i s = .next (nextOf i s) := by
  cases i <;>
    simp only [nextOf, exec, execStatus, execCommand, execWrite, execRead, execWake, execReady, execInit, execProbe,
      execCrc15, execCrc10, execBuildcmd, execBuildwr, execParserd, execOffset, execCtrreset] <;>
    first | rfl | (split <;> rfl)

/-! ## Decoding: descriptor words of V-DESC, operands beside them -/

theorem test_decode_status : decode (Request.ofDesc 0x00000000#32) = .ok .status := by decide
theorem test_decode_command : decode (Request.ofDesc 0x00110027#32) = .ok (.command .pack 0x0027) := by decide
theorem test_decode_write :
    decode { Request.ofDesc 0x00220001#32 with data := [9] } = .ok (.write .shared 0x0001 [9]) := by decide
theorem test_decode_read : decode (Request.ofDesc 0x00030002#32) = .ok (.read .cell 0x0002) := by decide
theorem test_decode_wake : decode (Request.ofDesc 0x00440000#32) = .ok (.wake .B) := by decide
theorem test_decode_ready : decode (Request.ofDesc 0x00050000#32) = .ok (.ready .A) := by decide
theorem test_decode_init : decode (Request.ofDesc 0x00060000#32) = .ok .init := by decide
theorem test_decode_probe : decode (Request.ofDesc 0x00070000#32) = .ok .probe := by decide
theorem test_decode_crc15 :
    decode { Request.ofDesc 0x00080000#32 with bytes := [0, 1] } = .ok (.crc15 [0, 1]) := by decide
theorem test_decode_crc10 :
    decode { Request.ofDesc 0x00090000#32 with bytes := [0], counter := 63 } = .ok (.crc10 [0] 63) := by decide
theorem test_decode_buildcmd : decode (Request.ofDesc 0x000A002E#32) = .ok (.buildcmd 0x002E) := by decide
theorem test_decode_buildwr :
    decode { Request.ofDesc 0x004B0001#32 with data := [9], count := 2 } = .ok (.buildwr .B 0x0001 2 [9]) := by decide
theorem test_decode_parserd :
    decode { Request.ofDesc 0x000C0000#32 with bytes := [9], count := 2, counter := 5 } = .ok (.parserd .A 2 5 [9]) := by
  decide
theorem test_decode_offset :
    decode { Request.ofDesc 0x004D0000#32 with index := 3, count := 4 } = .ok (.offset .B 3 4) := by decide
theorem test_decode_ctrreset : decode (Request.ofDesc 0x001E0000#32) = .ok (.ctrreset .pack) := by decide

/-! ## Requests the decoder turns away: V-ILL, checks 1 to 5 -/

theorem test_reject_op : decode (Request.ofDesc 0x000F0000#32) = .error .reservedOp := by decide
theorem test_reject_reserved_bits : decode (Request.ofDesc 0x00800000#32) = .error .reservedBits := by decide
theorem test_reject_cmd : decode (Request.ofDesc 0x00000001#32) = .error .unusedDescriptorField := by decide
theorem test_reject_port : decode (Request.ofDesc 0x00430002#32) = .error .unusedDescriptorField := by decide
theorem test_reject_cls : decode (Request.ofDesc 0x00140000#32) = .error .unusedDescriptorField := by decide
theorem test_reject_count :
    decode { Request.ofDesc 0x00070000#32 with count := 1 } = .error .unusedRecordField := by decide
theorem test_reject_counter :
    decode { Request.ofDesc 0x00080000#32 with bytes := [0], counter := 1 } = .error .unusedRecordField := by decide
theorem test_reject_class : decode (Request.ofDesc 0x00330002#32) = .error .reservedClass := by decide

/-! ## Well-formedness: an ill-formed term for each of the checks 6 to 9 (V-ILL), and terms at their edges -/

theorem test_wf_counter : (Instr.crc10 [0] 64).wf (cfgN 9) = false ∧ (Instr.crc10 [0] 63).wf (cfgN 9) = true := by decide
theorem test_wf_counter_parserd :
    (Instr.parserd .B 1 64 (head ++ garbage)).wf (cfgN 9) = false ∧
    (Instr.parserd .B 1 63 (head ++ garbage)).wf (cfgN 9) = true := by decide
theorem test_wf_count_zero : (Instr.buildwr .B 1 0 []).wf (cfgN 9) = false := by decide
theorem test_wf_count_zero_parserd : (Instr.parserd .B 0 0 head).wf (cfgN 9) = false := by decide
theorem test_wf_count_above_maximum :
    (Instr.offset .B 0 10).wf { cfgN 9 with maxDevices := 9 } = false ∧
    (Instr.offset .B 0 9).wf { cfgN 9 with maxDevices := 9 } = true := by decide
theorem test_wf_index : (Instr.offset .A 2 2).wf (cfgN 9) = false ∧ (Instr.offset .A 1 2).wf (cfgN 9) = true := by decide
theorem test_wf_write_length :
    (Instr.write .cell 1 (List.replicate 53 0)).wf (cfgN 9) = false ∧
    (Instr.write .cell 1 (List.replicate 54 0)).wf (cfgN 9) = true := by decide
theorem test_wf_buildwr_length : (Instr.buildwr .B 1 2 (sid 0)).wf (cfgN 9) = false := by decide
theorem test_wf_parserd_length : (Instr.parserd .B 2 0 (List.replicate 19 0)).wf (cfgN 9) = false := by decide

/-! ## One request, one step -/

/-- V-DESC, V-FRAME: a fetched BUILDCMD runs as the first request after reset. -/
theorem test_withFetchWord :
    (after (step (State.reset.withFetchWord 32 0x000A002C))).map (·.trace) =
      some [.response ⟨0, 0, 0, 0, [0x00, 0x2C, 0x59, 0x90], 0⟩] := by decide +kernel

/-- V-ILL: `CRC10 {00}, 64` is refused by a step. -/
theorem test_step_refuses :
    (after (step { fresh 1 [] with host := [encode (.crc10 [0] 64)] })).map (·.trace) =
      some [.response ⟨7, 0, 0, 0, [], 0⟩] := by decide +kernel

/-- T11. -/
theorem test_status :
    respOf .status (block 9 (info .singleBreak 5 4 .B 7 9 17) []) = ⟨0, 1, 0, 0, [], 0⟩ := by decide +kernel

/-- T11. -/
theorem test_init :
    (nextOf .init (block 9 (info .singleBreak 5 4 .B 7 9 17) [])).chain = info .complete 9 9 .A 0 0 0 := by decide +kernel

/-- T4 step 1: no flip, the answer is not inspected. -/
theorem test_command :
    let s := block 2 (info .complete 2 2 .A 0 0 0) [.bytes head]
    (nextOf (.command .shared 0x27) s).chain = info .complete 2 2 .A 1 1 0 ∧
    sent (evsOf (.command .shared 0x27) s) = [[0x00, 0x27, 0xA7, 0xFA]] := by decide +kernel

/-- P3: the 100th success probes and finds the chain healed. -/
theorem test_command_tally :
    let clean : List Answer := [ans (slot 0 0x1B 0x49), ans (slot 0 0x1B 0x49)]
    let s := block 1 (info .singleBreak 1 0 .A 5 5 99) (.bytes head :: clean)
    (nextOf (.command .shared 0x27) s).chain = info .complete 1 1 .A 6 6 0 ∧
    (respOf (.command .shared 0x27) s).status = 0 := by decide +kernel

/-- P2 step 2: each port's frame carries its own devices, the nearest first. -/
theorem test_write_dual :
    let data : Bytes := [0x10, 0x11, 0x12, 0x13, 0x14, 0x15, 0x20, 0x21, 0x22, 0x23, 0x24, 0x25,
      0x30, 0x31, 0x32, 0x33, 0x34, 0x35]
    let s := block 3 (info .singleBreak 2 1 .A 1 1 1) [ans (garbage ++ garbage), ans garbage]
    (nextOf (.write .shared 1 data) s).chain = info .singleBreak 2 1 .A 2 2 2 ∧
    sent (evsOf (.write .shared 1 data) s) =
      [[0x00, 0x01, 0x3D, 0x6E, 0x30, 0x31, 0x32, 0x33, 0x34, 0x35, 0x03, 0xAA,
        0x20, 0x21, 0x22, 0x23, 0x24, 0x25, 0x01, 0xA2],
       [0x00, 0x01, 0x3D, 0x6E, 0x10, 0x11, 0x12, 0x13, 0x14, 0x15, 0x03, 0x35]] := by decide +kernel

/-- T4 step 2 (with the pack monitor on port A): a class PACK write, the port flips. -/
theorem test_write_complete :
    let s := { block 2 (info .complete 2 2 .A 1 1 0) [ans (garbage ++ garbage)] with
      cfg := { cfgN 2 with packMonitorPort := .A } }
    let i := Instr.write .pack 1 [1, 1, 1, 1, 1, 1, 2, 2, 2, 2, 2, 2]
    (nextOf i s).chain = info .complete 2 2 .B 1 2 0 ∧
    sent (evsOf i s) = [[0x00, 0x01, 0x3D, 0x6E, 2, 2, 2, 2, 2, 2, 0x03, 0xA2, 1, 1, 1, 1, 1, 1, 0x01, 0x84]] := by
  decide +kernel

/-- T10: both counters wrap to 1. -/
theorem test_read_wraps_counters :
    let s := block 1 (info .complete 1 1 .A 63 63 0) [ans (slot 0 0xFD 0x03)]
    (nextOf (.read .shared 2) s).chain = info .complete 1 1 .B 1 1 0 ∧
    respOf (.read .shared 2) s = ⟨0, 0, 0, 0, sid 0, 0⟩ := by decide +kernel

/-- T5: a counter fault on port A; the pack monitor is not checked; the broadcast goes out on both ports. -/
theorem test_read_counter_fault :
    let s := block 3 (info .singleBreak 2 1 .A 0 3 40)
      [ans (slot 2 0x02 0x8A ++ slot 1 0x1C 0xF1), ans (slot 0 0x0D 0xFA), .bytes head, .bytes head]
    (nextOf (.read .cell 2) s).chain = info .singleBreak 2 1 .A 0 3 0 ∧
    respOf (.read .cell 2) s = ⟨4, 0, 0, 0, [], 0⟩ ∧ xferCount (evsOf (.read .cell 2) s) = 4 := by decide +kernel

/-- V-PORT. -/
theorem test_wake :
    evsOf (.wake .A) (fresh 2 []) =
      [.setCs .A .asserted, .setCs .A .deasserted, .delayUs 500,
       .setCs .A .asserted, .setCs .A .deasserted, .delayUs 500,
       .setCs .A .asserted, .setCs .A .deasserted, .delayUs 500] := by decide +kernel

/-- V-PORT. -/
theorem test_ready :
    evsOf (.ready .B) (fresh 1 []) =
      [.setCs .B .asserted, .setCs .B .deasserted, .delayUs 10,
       .setCs .B .asserted, .setCs .B .deasserted, .delayUs 10] := by decide +kernel

/-- V-PROBE row (3, (2, 1)). -/
theorem test_probe_single_break :
    let s := fresh 3 [ans (slot 2 0x02 0x8A), ans (slot 2 0x02 0x8A ++ slot 1 0x03 0x5C),
      ans (slot 2 0x02 0x8A ++ slot 1 0x03 0x5C ++ garbage), ans (slot 0 0x00 0x6B), ans (slot 0 0x00 0x6B ++ garbage)]
    respOf .probe s = ⟨0, 1, 2, 1, [], 0⟩ ∧ xferCount (evsOf .probe s) = 5 ∧
    (nextOf .probe s).chain = info .singleBreak 2 1 .A 0 0 0 := by decide +kernel

/-- P6 step 5 on one device: a counter fault is the status, the result is committed, no counter is reset. -/
theorem test_probe_counter_fault :
    let s := fresh 1 [ans (slot 0 0x24 0x13), ans (slot 0 0x24 0x13)]
    respOf .probe s = ⟨4, 0, 1, 1, [], 0⟩ ∧ (nextOf .probe s).chain = s.chain := by decide +kernel

/-- V-CRC15. -/
theorem test_crc15 :
    commandCrc (cfgN 1) [0x00, 0x01] = 0x3D6E#16 ∧ commandCrc (cfgN 1) [] = 0x0020#16 ∧
    commandCrc (cfgN 1) [1, 2, 3] = 0xB47A#16 := by decide +kernel

/-- V-CRC10: the counter is folded after the data. -/
theorem test_crc10 :
    dataCrc (cfgN 1) [0, 0, 0, 0, 0, 0] 1 = 0x36C#10 ∧
    dataCrc (cfgN 1) [0x12, 0x34, 0x56, 0x78, 0x9A, 0xBC] 63 = 0x0A4#10 := by decide +kernel

/-- V-FRAME. -/
theorem test_buildcmd : respOf (.buildcmd 0x002E) (fresh 1 []) = ⟨0, 0, 0, 0, [0x00, 0x2E, 0xC4, 0xC6], 0⟩ := by
  decide +kernel

/-- E2 step 3: port A reverses the devices. -/
theorem test_buildwr :
    (respOf (.buildwr .A 1 2 [1, 2, 3, 4, 5, 6, 0x11, 0x12, 0x13, 0x14, 0x15, 0x16]) (fresh 9 [])).data =
      [0x00, 0x01, 0x3D, 0x6E, 0x11, 0x12, 0x13, 0x14, 0x15, 0x16, 0x03, 0x39, 1, 2, 3, 4, 5, 6, 0x01, 0x31] := by
  decide +kernel

/-- V-PARSE: `PorError` beats a chain break. -/
theorem test_parserd_priority :
    respOf (.parserd .B 2 5 (head ++ slot 0 0x00 0x6B ++ slot 0 0x16 0xD9)) (fresh 9 []) = ⟨3, 0, 0, 0, [], 0⟩ := by
  decide +kernel

/-- E2 step 6: a frame built for B and parsed as A. -/
theorem test_parserd_mirrors :
    respOf (.parserd .A 2 0 ([0x00, 0x01, 0x3D, 0x6E] ++ [1, 2, 3, 4, 5, 6, 0x01, 0x31] ++
        [0x11, 0x12, 0x13, 0x14, 0x15, 0x16, 0x03, 0x39])) (fresh 9 []) =
      ⟨0, 0, 0, 0, [0x11, 0x12, 0x13, 0x14, 0x15, 0x16, 1, 2, 3, 4, 5, 6], 0⟩ := by decide +kernel

/-- V-OFFSET. -/
theorem test_offset :
    (respOf (.offset .A 0 9) (fresh 9 [])).value = 0x00080044#32 ∧
    (respOf (.offset .B 3 4) (fresh 9 [])).value = 0x0003001C#32 := by decide +kernel

/-- T7: no port is reachable, nothing is sent, the counters are zeroed. -/
theorem test_ctrreset :
    let s := block 2 (info .multipleBreak 0 0 .A 4 4 0) []
    (nextOf (.ctrreset .shared) s).chain = info .multipleBreak 0 0 .A 0 0 0 ∧ evsOf (.ctrreset .shared) s = [] := by
  decide +kernel

/-- V-CLASS, V-INC. -/
theorem test_classify_and_inc :
    classify 3 0 3 = .singleBreak ∧ classify 9 1 9 = .multipleBreak ∧ classify 0 0 1 = .multipleBreak ∧
    inc 0 = 1 ∧ inc 62 = 63 ∧ inc 63 = 1 := by decide

/-! ## Witnesses: each statement's hypotheses, met together -/

theorem witness_EncodeOfDecode :
    decode { Request.ofDesc 0x004B0001#32 with data := [9], count := 2 } = .ok (.buildwr .B 1 2 [9]) := by decide

/-- One request for each disjunct of the reserved space. -/
theorem witness_ReservedEncodingsAreRefused :
    (fresh 1 []).ctl.busy = false ∧
    (0x000F0000#32).extractLsb' 16 4 = 0xF#4 ∧
    (0x00800000#32).extractLsb' 23 9 ≠ 0#9 ∧
    (0x00330002#32).extractLsb' 20 2 = 3#2 ∧ (0x00300000#32).extractLsb' 20 2 = 3#2 := by decide

/-- One request for each field an op may leave unused. -/
theorem witness_UnusedFieldsAreRefused :
    opOfCode ((0x00000001#32).extractLsb' 16 4) = some .status ∧
    ((opUses .status).cmd = false ∧ (0x00000001#32).extractLsb' 0 16 ≠ 0#16) ∧
    ((opUses .status).cls = false ∧ (0x00100000#32).extractLsb' 20 2 ≠ 0#2) ∧
    ((opUses .status).port = false ∧ (0x00400000#32).extractLsb' 22 1 ≠ 0#1) ∧
    ((opUses .status).data = false ∧ ([0] : Bytes) ≠ []) ∧ ((opUses .status).bytes = false) ∧
    ((opUses .status).count = false ∧ (1#32) ≠ 0) ∧ (opUses .status).index = false ∧
    ((opUses .status).counter = false ∧ (1#8) ≠ 0) := by decide

theorem witness_IllegalRequestExactlyWhenIllFormed :
    (Instr.crc10 [0] 64).wf (fresh 1 []).cfg = false ∧
    (Instr.crc10 [0] 63).wf (fresh 1 []).cfg = true ∧ Serves (.crc10 [0] 63) (fresh 1 []) := by decide +kernel

/-- A request offered to the idle block, and an instruction it decodes to. -/
theorem witness_StepRunsTheDecodedInstruction :
    let s := { fresh 1 [] with host := [Request.ofDesc 0x00440000#32] }
    s.ctl.busy = false ∧ s.host = Request.ofDesc 0x00440000#32 :: [] ∧
    decode (Request.ofDesc 0x00440000#32) = .ok (.wake .B) := by decide +kernel

theorem witness_IdleBlockWaits : (fresh 1 []).ctl.busy = false ∧ (fresh 1 []).host = [] := by decide +kernel

theorem witness_EveryRequestIsAnswered :
    let s := { fresh 1 [.transportError] with host := [Request.ofDesc 0x00070000#32, Request.ofDesc 0] }
    s.ctl.busy = false ∧ s.host = Request.ofDesc 0x00070000#32 :: [Request.ofDesc 0] := by decide +kernel

/-- The smallest and the largest chain, and the smallest and the largest tally limit. -/
theorem witness_InvariantAtReset :
    (cfgN 1).wf = true ∧ (cfgN (2 ^ 32 - 1)).wf = true ∧ ({ cfgN 1 with maxDevices := 1 } : Params).wf = true ∧
    ({ cfgN 1 with dualPortLimit := 1 } : Params).wf = true ∧
    ({ cfgN 1 with dualPortLimit := 2 ^ 32 - 1 } : Params).wf = true := by decide +kernel

/-- A step from a state that keeps the invariant, its chain broken next to port B. -/
theorem witness_StepKeepsTheInvariant :
    let s := { block 1 (info .singleBreak 1 0 .A 5 5 99) [.bytes head, .transportError] with
      host := [Request.ofDesc 0x00210027#32] }
    s.Inv ∧ (after (step s)).isSome = true := by decide +kernel

/-- The tally of a broken chain may be nonzero; outside `SingleBreak` it is 0. -/
theorem witness_TallyIsZeroOutsideSingleBreak :
    let s := { block 1 (info .singleBreak 1 0 .A 5 5 99) [.bytes head, .transportError] with
      host := [Request.ofDesc 0x00210027#32] }
    let u := { block 1 (info .complete 1 1 .A 5 5 0) [.bytes head] with host := [Request.ofDesc 0x00210027#32] }
    (s.chain.status ≠ .singleBreak → s.chain.tally = 0) ∧ (after (step s)).isSome = true ∧
    (u.chain.status ≠ .singleBreak ∧ u.chain.tally = 0) ∧ (after (step u)).isSome = true := by decide +kernel

theorem witness_ChipSelectDiscipline :
    let s := { fresh 1 [.transportError] with host := [Request.ofDesc 0x00070000#32] }
    s.cs = CsLines.idle ∧ (after (step s)).isSome = true := by decide +kernel

/-- A request whose second exchange fails, and one none of whose exchanges does. -/
theorem witness_FailedExchangeEndsTheRequest :
    let s := fresh 1 [ans (slot 0 0x00 0x6B), .transportError]
    let u := fresh 1 [ans (slot 0 0x00 0x6B), ans (slot 0 0x00 0x6B)]
    Serves .probe s ∧ (respOf .probe s).status = 2 ∧ (∃ e ∈ evsOf .probe s, e.isFailedXfer = true) ∧
    Serves .probe u ∧ (respOf .probe u).status = 0 := by decide +kernel

theorem witness_CountersGiveDifferentDataCrcs : Params.default.crc10Poly.getLsbD 0 = true ∧ (0#6) ≠ 63#6 := by decide

theorem witness_Crc10Answers : (0#8).toNat ≤ 63 ∧ (63#8).toNat ≤ 63 := by decide

/-- One device, and as many as the instance admits. -/
theorem witness_BuildwrPlacesEveryDevice :
    let s := { fresh 1 [] with cfg := { cfgN 1 with maxDevices := 2 } }
    (1 ≤ (1#32).toNat ∧ (1#32).toNat ≤ s.cfg.maxDevices ∧ (sid 0).length = 6 * (1#32).toNat) ∧
    (1 ≤ (2#32).toNat ∧ (2#32).toNat ≤ s.cfg.maxDevices ∧ (sid 0 ++ sid 1).length = 6 * (2#32).toNat) := by
  decide +kernel

/-- A frame with a fault and a frame without. -/
theorem witness_ParserdAnswersTheWorstSlot :
    let s := { fresh 1 [] with cfg := { cfgN 1 with maxDevices := 1 } }
    let good := head ++ slot 0 0xFD 0x03
    1 ≤ (1#32).toNat ∧ (1#32).toNat ≤ s.cfg.maxDevices ∧ (63#8).toNat ≤ 63 ∧
    good.length = 4 + 8 * (1#32).toNat ∧ (head ++ garbage).length = 4 + 8 * (1#32).toNat ∧
    (respOf (.parserd .A 1 63 good) s).status = 0 ∧ (respOf (.parserd .A 1 63 (head ++ garbage)) s).status = 1 := by
  decide +kernel

/-- One slot for each clause: a failed CRC, 0 against 0, 0 against 63, 63 against 0. -/
theorem witness_SlotStatusRule :
    let c := cfgN 1
    dataCrc c (sid 0) 0 ≠ 0x06A#10 ∧ dataCrc c (sid 0) 0 = 0x06B#10 ∧ (some (0#6) : Option (BitVec 6)) = some 0 ∧
    (some (63#6) ≠ none ∧ some (63#6) ≠ some (0#6)) ∧
    dataCrc c (sid 0) 63 = 0x103#10 ∧ (some (0#6) ≠ none ∧ some (0#6) ≠ some (63#6)) ∧ (63#6) ≠ 0 := by decide +kernel

/-- The last bit of the last byte, and the first of the first. -/
theorem witness_AnyFlippedBitIsAChainBreak :
    let s := fresh 1 []
    1 ≤ s.cfg.maxDevices ∧ (63#8).toNat ≤ 63 ∧ s.cfg.crc10Poly.setWidth 10 ≠ 0#10 ∧ head.length = 4 ∧
    (sid 0).length = 6 ∧ 7 < 8 ∧ 0 < 8 ∧
    registerFrame s.cfg (sid 0) 63 = slot 0 0xFD 0x03 := by decide +kernel

theorem witness_WriteFrameRoundTrip :
    let s := { fresh 1 [] with cfg := { cfgN 1 with maxDevices := 2 } }
    1 ≤ (2#32).toNat ∧ (2#32).toNat ≤ s.cfg.maxDevices ∧ (sid 0 ++ sid 1).length = 6 * (2#32).toNat ∧
    (0#8).toNat ≤ 63 ∧ (63#8).toNat ≤ 63 := by decide +kernel

theorem witness_HeaderBytesAreIgnored : head.length = 4 ∧ ([0, 0, 0, 0] : Bytes).length = 4 := by decide

/-- The last device of 8190, where nothing is cut, and of 8193, whose offset 65540 is cut to 4 (log entry 2). -/
theorem witness_OffsetAnswers :
    let s := fresh 1 []
    (1 ≤ (8190#32).toNat ∧ (8190#32).toNat ≤ s.cfg.maxDevices ∧ (8189#32).toNat < (8190#32).toNat) ∧
    (1 ≤ (8193#32).toNat ∧ (8193#32).toNat ≤ s.cfg.maxDevices ∧ (8192#32).toNat < (8193#32).toNat) ∧
    (respOf (.offset .B 8189 8190) s).value = 0x1FFDFFEC#32 ∧
    (respOf (.offset .B 8192 8193) s).value = 0x20000004#32 := by decide +kernel

theorem witness_SlotsCarryTheNearestDevices : 0 ≤ 3 ∧ 2 ≤ 3 ∧ 3 ≤ 3 := by decide

/-- An answer of the right length, one of another length, and a failure. -/
theorem witness_TransceiveOpensExchangesAndCloses :
    (fresh 1 [.bytes head]).answers = .bytes head :: [] ∧ head.length = ([0, 0, 0, 0] : Bytes).length ∧
    (fresh 1 [.bytes []]).answers = .bytes [] :: [] ∧ ([] : Bytes).length ≠ head.length ∧
    (fresh 1 [.transportError]).answers = .transportError :: [] := by decide +kernel

/-- A probe that finds both devices on port A and the nearer one on port B. -/
theorem witness_ProbeFindsTheReachableDevices :
    let sa := [head ++ slot 1 0x03 0x5C, head ++ slot 1 0x03 0x5C ++ slot 0 0x00 0x6B]
    let sb := [head ++ slot 0 0x00 0x6B, head ++ slot 0 0x00 0x6B ++ garbage]
    let s := fresh 2 ((sa ++ sb).map Answer.bytes ++ [.transportError])
    ScanScript s.cfg 2 sa ∧ ScanScript s.cfg 1 sb ∧ s.answers = (sa ++ sb).map Answer.bytes ++ [.transportError] := by
  decide +kernel

theorem witness_AbortedProbeCommitsNothing :
    let s := fresh 1 [ans garbage, .transportError]
    Serves .probe s ∧ ∃ e ∈ evsOf .probe s, e.isFailedXfer = true := by decide +kernel

theorem witness_ProbeFrame : exec .probe (fresh 1 []) = .next (nextOf .probe (fresh 1 [])) := exec_eq_nextOf _ _

theorem witness_ProbeExchangeCount :
    let s := fresh 1 [ans garbage, ans (slot 0 0x00 0x6B)]
    Serves .probe s ∧ (respOf .probe s).status ≠ 2#3 := by decide +kernel

/-- The current port of a complete chain; both ports; one port; none. -/
theorem witness_CtrresetBroadcasts :
    let ports := fun s : State => if s.chain.status = .complete then [s.chain.currentPort]
      else (if 0 < s.chain.availA then [Port.A] else []) ++ (if 0 < s.chain.availB then [Port.B] else [])
    ports (block 2 (info .complete 2 2 .B 4 4 0) [.bytes head]) = [.B] ∧
    ports (block 2 (info .singleBreak 1 1 .A 4 4 0) [.bytes head, .bytes head]) = [.A, .B] ∧
    ports (block 2 (info .singleBreak 0 2 .A 4 4 0) [.bytes head]) = [.B] ∧
    ports (block 2 (info .multipleBreak 0 0 .A 4 4 0) []) = [] ∧ (∀ rx ∈ [head, head], rx.length = 4) := by
  decide +kernel

theorem witness_CtrresetFrame :
    exec (.ctrreset .pack) (fresh 1 [.transportError]) = .next (nextOf (.ctrreset .pack) (fresh 1 [.transportError])) :=
  exec_eq_nextOf _ _

theorem witness_CommandOnACompleteChain :
    let s := fresh 1 [.bytes head]
    s.chain.status = .complete ∧ s.answers = .bytes head :: [] ∧ head.length = 4 := by decide +kernel

theorem witness_WriteOnACompleteChain :
    let s := fresh 1 [ans garbage]
    s.chain.status = .complete ∧ (sid 0).length = 6 * s.cfg.deviceCount ∧ s.answers = .bytes (head ++ garbage) :: [] ∧
    (head ++ garbage).length = 4 + 8 * s.cfg.deviceCount := by decide +kernel

/-- A SHARED read at the counter 63, and a CELL read whose only device is the pack monitor, which is not checked. -/
theorem witness_ReadOnACompleteChain :
    let rx := head ++ slot 0 0xFD 0x03
    let s := block 1 (info .complete 1 1 .A 5 63 0) [.bytes rx]
    s.chain.status = .complete ∧ s.answers = .bytes rx :: [] ∧ rx.length = 4 + 8 * s.cfg.deviceCount ∧
    ∀ cls ∈ [DevClass.shared, .cell, .pack], ∀ j < s.cfg.deviceCount,
      slotStatus s.cfg (slotPayload rx j) (slotPec rx j)
        (expected s.cfg cls s.chain.ctr (devOf s.chain.currentPort j s.cfg.deviceCount)) = .success := by
  decide +kernel

/-- E8 on one device, and a counter that is neither the expected one nor 0; then both on a broken chain, over one port
and over two (T5), with every broadcast answered and with one that fails. -/
theorem witness_CounterFaultResetsTheCounters :
    let por := head ++ slot 0 0x00 0x6B
    let cce := head ++ slot 0 0x1F 0xC6
    let s := block 1 (info .complete 1 1 .A 5 5 0) [.bytes por, .bytes head]
    let u := block 1 (info .complete 1 1 .A 5 5 0) [.bytes cce, .transportError]
    let v := block 1 (info .singleBreak 0 1 .A 5 5 40) ([] ++ [.bytes por] ++ [head].map Answer.bytes ++ [])
    let rA := head ++ slot 1 0x1C 0xF1
    let rB := head ++ slot 0 0x0D 0xFA
    let w := block 2 (info .singleBreak 1 1 .A 0 3 99)
      ([.bytes rA] ++ [.bytes rB] ++ ([head].map Answer.bytes ++ .transportError :: []))
    (s.chain.status = .complete ∧ s.answers = .bytes por :: .bytes head :: [] ∧ por.length = 4 + 8 * s.cfg.deviceCount ∧
      frameStatus s.cfg por .A 1 1 (expected s.cfg .pack s.chain.ctr) = .porError) ∧
    (u.chain.status = .complete ∧ u.answers = .bytes cce :: .transportError :: [] ∧
      cce.length = 4 + 8 * u.cfg.deviceCount ∧
      frameStatus u.cfg cce .A 1 1 (expected u.cfg .pack u.chain.ctr) = .commandCounterError) ∧
    (v.chain.status ≠ .complete ∧ por.length = 4 + 8 * v.chain.availB ∧
      worse (frameStatus v.cfg [] .A 1 0 (expected v.cfg .pack v.chain.ctr))
        (frameStatus v.cfg por .B 1 1 (expected v.cfg .pack v.chain.ctr)) = .porError ∧
      (nextOf (.read .pack 2) v).chain = info .singleBreak 0 1 .A 5 0 0) ∧
    (w.chain.status ≠ .complete ∧ rA.length = 4 + 8 * w.chain.availA ∧ rB.length = 4 + 8 * w.chain.availB ∧
      worse (frameStatus w.cfg rA .A 2 1 (expected w.cfg .cell w.chain.ctr))
        (frameStatus w.cfg rB .B 2 1 (expected w.cfg .cell w.chain.ctr)) = .commandCounterError ∧
      replyOf (buildCommandFrame w.cfg w.cfg.cmdRstcc) .transportError = none ∧
      respOf (.read .cell 2) w = ⟨2, 0, 0, 0, [], 0⟩ ∧
      (nextOf (.read .cell 2) w).chain = info .singleBreak 1 1 .A 0 3 0) := by decide +kernel

/-- A failure, and an answer of another length, for each of the three operations: a COMMAND answered with a read's length
and a READ answered with a command's among them. -/
theorem witness_SpiErrorOnACompleteChainChangesNothing :
    let s := fresh 1 [.transportError]
    (∀ i ∈ [Instr.command .cell 2, .write .cell 2 (sid 0), .read .cell 2], i.wf s.cfg = true) ∧
    s.chain.status = .complete ∧ s.answers = .transportError :: [] ∧
    (head ++ garbage).length ≠ (buildCommandFrame s.cfg 2).length ∧
    head.length ≠ (buildReadTx s.cfg 2 s.cfg.deviceCount).length ∧
    head.length ≠ (buildWriteFrame s.cfg 2 (sid 0) .A 1 1).length := by decide +kernel

/-- Both ports, one port, none. -/
theorem witness_CommandOnASingleBreak :
    let ports := fun s : State =>
      (if 0 < s.chain.availA then [Port.A] else []) ++ (if 0 < s.chain.availB then [Port.B] else [])
    let s := block 2 (info .singleBreak 1 1 .A 5 5 98) [.bytes head, .bytes head]
    let u := block 2 (info .singleBreak 0 2 .A 5 5 0) [.bytes head]
    (s.chain.status = .singleBreak ∧ s.chain.tally + 1 ≠ s.cfg.dualPortLimit ∧ [head, head].length = (ports s).length ∧
      (∀ rx ∈ [head, head], rx.length = 4) ∧ s.answers = [head, head].map Answer.bytes ++ []) ∧
    (u.chain.status = .singleBreak ∧ u.chain.tally + 1 ≠ u.cfg.dualPortLimit ∧ [head].length = (ports u).length ∧
      u.answers = [head].map Answer.bytes ++ []) := by decide +kernel

/-- Both ports, and port A alone, in a request that has been accepted. -/
theorem witness_WriteOnASingleBreak :
    let rx := head ++ garbage
    let rr := head ++ garbage ++ garbage
    let s := (block 2 (info .singleBreak 1 1 .A 5 5 98) [.bytes rx, .bytes rx]).accept (Request.ofDesc 0) []
    let u := (block 2 (info .singleBreak 2 0 .A 5 5 0) [.bytes rr]).accept (Request.ofDesc 0) []
    (s.chain.statusFits s.cfg.deviceCount ∧ s.chain.status = .singleBreak ∧ s.chain.tally + 1 ≠ s.cfg.dualPortLimit ∧
      (sid 0 ++ sid 1).length = 6 * s.cfg.deviceCount ∧ s.answers = [.bytes rx] ++ [.bytes rx] ++ [] ∧
      rx.length = 4 + 8 * s.chain.availA ∧ rx.length = 4 + 8 * s.chain.availB) ∧
    (u.chain.statusFits u.cfg.deviceCount ∧ u.chain.status = .singleBreak ∧ u.chain.tally + 1 ≠ u.cfg.dualPortLimit ∧
      u.answers = [.bytes rr] ++ [] ++ [] ∧ rr.length = 4 + 8 * u.chain.availA ∧
      head.length = 4 + 8 * u.chain.availB) := by decide +kernel

/-- Both ports, and T9 with port A alone, in a request that has been accepted. -/
theorem witness_ReadOnASingleBreakMergesBothPorts :
    let rA := head ++ slot 1 0x03 0x5C
    let rB := head ++ slot 0 0x00 0x6B
    let rr := head ++ slot 1 0x03 0x5C ++ slot 0 0x00 0x6B
    let s := (block 2 (info .singleBreak 1 1 .A 0 0 98) [.bytes rA, .bytes rB]).accept (Request.ofDesc 0) []
    let u := (block 2 (info .singleBreak 2 0 .A 0 0 0) [.bytes rr]).accept (Request.ofDesc 0) []
    (s.chain.statusFits s.cfg.deviceCount ∧ s.chain.status = .singleBreak ∧ s.chain.tally + 1 ≠ s.cfg.dualPortLimit ∧
      s.answers = [.bytes rA] ++ [.bytes rB] ++ [] ∧
      rA.length = 4 + 8 * s.chain.availA ∧ rB.length = 4 + 8 * s.chain.availB ∧
      frameStatus s.cfg rA .A 2 1 (expected s.cfg .shared s.chain.ctr) = .success ∧
      frameStatus s.cfg rB .B 2 1 (expected s.cfg .shared s.chain.ctr) = .success) ∧
    (u.chain.statusFits u.cfg.deviceCount ∧ u.chain.status = .singleBreak ∧ u.chain.tally + 1 ≠ u.cfg.dualPortLimit ∧
      u.answers = [.bytes rr] ++ [] ++ [] ∧
      rr.length = 4 + 8 * u.chain.availA ∧ head.length = 4 + 8 * u.chain.availB ∧
      frameStatus u.cfg rr .A 2 2 (expected u.cfg .shared u.chain.ctr) = .success ∧
      frameStatus u.cfg head .B 2 0 (expected u.cfg .shared u.chain.ctr) = .success) := by decide +kernel

/-- P3 on two devices: a COMMAND and a READ over both ports, a WRITE over port A alone, and P3b, whose probe finds a
counter fault. The request is accepted with `busy` set. -/
theorem witness_TallyLimitTriggersAProbe :
    let sa := [head ++ slot 1 0x18 0x7E, head ++ slot 1 0x18 0x7E ++ slot 0 0x1B 0x49]
    let sb := [head ++ slot 0 0x1B 0x49, head ++ slot 0 0x1B 0x49 ++ garbage]
    let fa := [head ++ slot 1 0x15 0xEF, head ++ slot 1 0x15 0xEF ++ garbage]
    let rA := head ++ slot 1 0x15 0xEF
    let rB := head ++ slot 0 0x16 0xD8
    let rr := head ++ garbage ++ garbage
    let s := fun more => (block 2 (info .singleBreak 1 1 .A 5 5 99) more).accept (Request.ofDesc 0) []
    let u := fun more => (block 2 (info .singleBreak 2 0 .A 5 5 99) more).accept (Request.ofDesc 0) []
    let probe := (sa ++ sb).map Answer.bytes ++ []
    let exp := expected (cfgN 2) .shared (incCounters .shared (s []).chain.ctr)
    (∀ i ∈ [Instr.command .shared 2, .write .shared 2 (sid 0 ++ sid 1), .read .shared 2], i.wf (cfgN 2) = true) ∧
    ((s []).chain.statusFits 2 ∧ (u []).chain.statusFits 2 ∧ (s []).chain.tally + 1 = (s []).cfg.dualPortLimit) ∧
    (frameStatus (cfgN 2) rA .A 2 1 (expected (cfgN 2) .shared (s []).chain.ctr) = .success ∧
      frameStatus (cfgN 2) rB .B 2 1 (expected (cfgN 2) .shared (s []).chain.ctr) = .success) ∧
    (ScanScript (cfgN 2) 2 sa ∧ ScanScript (cfgN 2) 1 sb ∧ ScanScript (cfgN 2) 1 fa) ∧
    (scriptFault (cfgN 2) .B exp 1 sb (scriptFault (cfgN 2) .A exp 2 sa .success) = .success ∧
      scriptFault (cfgN 2) .B exp 1 sb (scriptFault (cfgN 2) .A exp 1 fa .success) = .commandCounterError) ∧
    (respOf (.command .shared 2) (s (.bytes head :: .bytes head :: probe))).status = 0#3 ∧
    (respOf (.read .shared 2) (s (.bytes rA :: .bytes rB :: probe))).data = sid 0 ++ sid 1 ∧
    (nextOf (.write .shared 2 (sid 0 ++ sid 1)) (u (.bytes rr :: probe))).chain = info .multipleBreak 2 1 .A 6 6 0 ∧
    (respOf (.command .shared 2) (s (.bytes head :: .bytes head :: ((fa ++ sb).map Answer.bytes ++
      [.bytes head, .bytes head])))).status = 4#3 := by decide +kernel

/-- T3. -/
theorem witness_BrokenReadIsReprobed :
    let rx := head ++ slot 2 0x02 0x8A ++ garbage ++ garbage
    let sa := [head ++ slot 2 0x02 0x8A, head ++ slot 2 0x02 0x8A ++ garbage]
    let sb := [head ++ slot 0 0x00 0x6B, head ++ slot 0 0x00 0x6B ++ garbage]
    let s := fresh 3 (.bytes rx :: ((sa ++ sb).map Answer.bytes ++ []))
    let exp := expected s.cfg .shared s.chain.ctr
    s.chain.status = .complete ∧ rx.length = 4 + 8 * s.cfg.deviceCount ∧
    frameStatus s.cfg rx s.chain.currentPort 3 3 (expected s.cfg .cell s.chain.ctr) = .chainBreakError ∧
    ScanScript s.cfg 1 sa ∧ ScanScript s.cfg 1 sb ∧ classify 1 1 3 = .multipleBreak ∧
    scriptFault s.cfg .B exp 1 sb (scriptFault s.cfg .A exp 1 sa .success) = .success := by decide +kernel

/-- T1 with a COMMAND, on one device. -/
theorem witness_HealedCommandIsRetriedOnce :
    let sc := [head ++ slot 0 0x00 0x6B]
    let s := block 1 (info .multipleBreak 1 1 .A 0 0 0)
      (.bytes head :: .bytes head :: ((sc ++ sc).map Answer.bytes ++ .bytes head :: []))
    let exp := expected s.cfg .shared s.chain.ctr
    s.chain.status = .multipleBreak ∧ 0 < s.chain.availA ∧ 0 < s.chain.availB ∧ head.length = 4 ∧
    ScanScript s.cfg s.cfg.deviceCount sc ∧
    scriptFault s.cfg .B exp 1 sc (scriptFault s.cfg .A exp 1 sc .success) = .success := by decide +kernel

/-- A healed chain: the only way to `Success`. -/
theorem witness_MultipleBreakSucceedsOnlyHealed :
    let s := block 1 (info .multipleBreak 0 0 .A 0 0 0)
      [ans (slot 0 0x00 0x6B), ans (slot 0 0x00 0x6B), .bytes head]
    let i := Instr.command .cell 0x27
    s.chain.status = .multipleBreak ∧ 1 < s.cfg.dualPortLimit ∧ Serves i s ∧ (respOf i s).status = 0#3 := by
  decide +kernel

/-- T2 on one device: 6 exchanges, two probes. -/
theorem witness_ExchangesAreBounded :
    let s := fresh 1 [ans garbage, ans garbage, ans (slot 0 0x00 0x6B), ans garbage, ans garbage, ans (slot 0 0x00 0x6B)]
    Serves (.read .shared 2) s ∧ xferCount (evsOf (.read .shared 2) s) = 6 := by decide +kernel

/-- A PROBE and a READ that change the chain status. -/
theorem witness_ChainStatusChangesOnlyByProbe :
    let s := fresh 1 [ans garbage, ans garbage]
    let u := fresh 1 [ans garbage, ans garbage, ans garbage]
    (1 ≤ s.cfg.deviceCount ∧ Serves .probe s ∧ (nextOf .probe s).chain.status ≠ s.chain.status) ∧
    (Serves (.read .cell 2) u ∧ (nextOf (.read .cell 2) u).chain.availA ≠ u.chain.availA) := by decide +kernel

/-- A READ that flips the port, and an INIT that does. -/
theorem witness_CurrentPortFlipsOnlyOnFullChainSuccess :
    let s := fresh 1 [ans (slot 0 0x00 0x6B)]
    let u := block 1 (info .complete 1 1 .B 0 0 0) []
    (Serves (.read .cell 2) s ∧ (nextOf (.read .cell 2) s).chain.currentPort ≠ s.chain.currentPort) ∧
    (Serves .init u ∧ (nextOf .init u).chain.currentPort ≠ u.chain.currentPort) := by decide +kernel

/-- A success and a failure; a READ whose frame breaks in `SingleBreak`, where the re-probe finds `MultipleBreak`; and a
COMMAND in `SingleBreak` whose exchange fails, on port A or on port B after a success on A: only the tally changes. -/
theorem witness_CountersAfterAnOperation :
    let s := fresh 1 [.bytes head]
    let u := fresh 1 [.transportError]
    let i := Instr.command .cell 0x27
    let v := block 1 (info .singleBreak 1 0 .A 0 0 40) [ans garbage, ans garbage, ans garbage]
    let j := Instr.read .shared 2
    (i.wf s.cfg = true ∧ Serves i s ∧ (respOf i s).status = 0#3 ∧ Serves i u ∧ (respOf i u).status ≠ 0#3) ∧
    (v.chain.status = .singleBreak ∧ Serves j v ∧ (respOf j v).status = 1#3 ∧
      (nextOf j v).chain = info .multipleBreak 0 0 .A 0 0 0) ∧
    ∀ as ∈ [[Answer.transportError], [.bytes head, .transportError]],
      let w := block 2 (info .singleBreak 1 1 .A 5 5 40) as
      Serves i w ∧ (respOf i w).status = 2#3 ∧ (nextOf i w).chain = info .singleBreak 1 1 .A 5 5 0 := by decide +kernel

/-- A refused request, a read with data and a probe. -/
theorem witness_ResponseFields :
    Serves (.crc10 [0] 64) (fresh 1 []) ∧ (respOf (.crc10 [0] 64) (fresh 1 [])).status ≠ 0#3 ∧
    Serves (.read .cell 2) (fresh 1 [ans (slot 0 0x00 0x6B)]) ∧ Serves .probe (fresh 1 [ans garbage, ans garbage]) := by
  decide +kernel

/-- Two answer lists that differ in their bytes. -/
theorem witness_CommandAndWriteIgnoreAnswerBytes :
    let s := block 2 (info .singleBreak 1 1 .A 5 5 98) []
    let i := Instr.command .cell 0x27
    s.chain.status ≠ .multipleBreak ∧ s.chain.tally + 1 ≠ s.cfg.dualPortLimit ∧
    List.Forall₂ (fun a b => a = b ∨ ∃ x y : Bytes, a = .bytes x ∧ b = .bytes y ∧ x.length = y.length)
      [Answer.bytes head, .bytes head] [.bytes [0, 0, 0, 0], .bytes head] ∧
    exec i { s with answers := [.bytes head, .bytes head] } =
      .next (nextOf i { s with answers := [.bytes head, .bytes head] }) :=
  ⟨by decide +kernel, by decide +kernel, .cons (.inr ⟨head, [0, 0, 0, 0], rfl, rfl, rfl⟩) (.cons (.inl rfl) .nil),
    exec_eq_nextOf _ _⟩

end Sys2Proof.Tests
end

/-! PROOFS. The invariant of the block between requests: it holds at reset and every step keeps it. On the way, once for
all instructions: every way a request can end, with the ChainInfo registers it leaves (`exec_served`), and every way a
step can end (`step_next`). -/

namespace Sys2Proof.Machine

/-! ## What a request does to the block -/

/-- The operation a COMMAND, WRITE or READ serves (spec R267 to R269). -/
def operationOf : Instr → Option Operation
  | .command cls cmd => some { kind := .command, cls := cls, cmd := cmd, data := [] }
  | .write cls cmd data => some { kind := .write, cls := cls, cmd := cmd, data := data }
  | .read cls cmd => some { kind := .read, cls := cls, cmd := cmd, data := [] }
  | _ => none

/-- Every way serving an instruction can leave the ChainInfo registers of an instance `c`, where the events `evs` were
emitted. -/
inductive Served (c : Params) (info : ChainInfo) (evs : List Event) : Instr → ChainInfo → Prop where
  /-- No register is written. -/
  | unchanged (i : Instr) : Served c info evs i info
  /-- CTRRESET: the covered counters are 0 (spec R253, R270). -/
  | countersZeroed (cls : DevClass) :
      Served c info evs (.ctrreset cls) { info with ctr := zeroCounters cls info.ctr }
  /-- INIT (spec R272). -/
  | initialised : Served c info evs .init (ChainInfo.initial c)
  /-- A PROBE that was not aborted (spec R231). -/
  | committed (a b : Nat) (hp : Probed c evs a b) :
      Served c info evs .probe (info.commit (classify a b c.deviceCount) a b)
  /-- COMMAND, WRITE or READ (spec R257). -/
  | operated (i : Instr) (op : Operation) (hop : operationOf i = some op) (st : TxStatus) (rd : Bytes)
      (info' : ChainInfo) (h : OperationEnds c op info evs st rd info') : Served c info evs i info'

/-- The outcome is a response, after a run from `s` that left the ChainInfo registers as serving `i` can. -/
def ServedFrom (i : Instr) (s : State) (o : Host.Outcome State Fault Refusal) : Prop :=
  ∃ u evs r, o = .next (u.respond r) ∧ Ran s u evs ∧ Served s.cfg s.chain evs i u.chain

/-- A response with nothing before it. -/
theorem servedFrom_respond (i : Instr) (s : State) (r : Response) : ServedFrom i s (.next (s.respond r)) :=
  ⟨s, [], r, rfl, Ran.refl s, .unchanged i⟩

theorem servedFrom_refuse (i : Instr) (s : State) : ServedFrom i s (.next s.refuse) :=
  servedFrom_respond i s _

theorem servedFrom_activate (i : Instr) (s : State) (P : Port) (count t : Nat) (r : Response) :
    ServedFrom i s (.next ((activate P count t s).respond r)) := by
  obtain ⟨evs, hran, -, -, hchain, -⟩ := toggles_ran P t (count + 1) s
  refine ⟨activate P count t s, evs, r, rfl, hran, ?_⟩
  rw [activate, hchain]
  exact .unchanged i

theorem servedFrom_serve {i : Instr} {op : Operation} (hop : operationOf i = some op) (s : State) :
    ServedFrom i s (.next (serve op s)) := by
  obtain ⟨evs, hran, -, -, hends⟩ := operate_ran op s
  have hphase : Ran (operate op s).2 ((operate op s).2.enter .respond) [] := Ran.ofWrite rfl rfl rfl rfl rfl rfl rfl
  have hall := hran.trans hphase
  rw [List.append_nil] at hall
  exact ⟨(operate op s).2.enter .respond, evs, _, rfl, hall, .operated i op hop _ _ _ hends⟩

theorem servedFrom_execCtrreset (cls : DevClass) (s : State) :
    ServedFrom (.ctrreset cls) s (execCtrreset cls s) := by
  obtain ⟨evs, hran, -, -, -, hchain, -⟩ := counterReset_ran cls .success s (by simp)
  have hphase : Ran (counterReset cls .success s).2 ((counterReset cls .success s).2.enter .respond) [] :=
    Ran.ofWrite rfl rfl rfl rfl rfl rfl rfl
  have hall := hran.trans hphase
  rw [List.append_nil] at hall
  refine ⟨(counterReset cls .success s).2.enter .respond, evs, _, rfl, hall, ?_⟩
  rw [enter_chain, hchain]
  exact .countersZeroed cls

theorem servedFrom_execInit (s : State) : ServedFrom .init s (execInit s) :=
  ⟨s.setChain (ChainInfo.initial s.cfg), [], _, rfl, Ran.ofWrite rfl rfl rfl rfl rfl rfl rfl, .initialised⟩

theorem servedFrom_execProbe (s : State) : ServedFrom .probe s (execProbe s) := by
  obtain ⟨evs, hran, -, -, hchain, -, hfound⟩ := runProbe_ran (s.enter .reprobe)
  have hphase : Ran s (s.enter .reprobe) [] := Ran.ofWrite rfl rfl rfl rfl rfl rfl rfl
  have hall := hphase.trans hran
  unfold execProbe
  generalize runProbe (s.enter .reprobe) = p at *
  obtain ⟨result, u⟩ := p
  simp only [enter_chain, enter_cfg, List.nil_append] at hchain hfound hall
  cases result with
  | spiError =>
    refine ⟨u, evs, _, rfl, hall, ?_⟩
    rw [hchain]
    exact .unchanged _
  | found cs a b pf =>
    obtain ⟨rfl, ha, hb, -, -, hprobed⟩ := hfound cs a b pf rfl
    have hcommit : Ran u (u.commit (classify a b s.cfg.deviceCount) a b) [] :=
      Ran.ofWrite rfl rfl rfl rfl rfl rfl rfl
    have hdone := hall.trans hcommit
    rw [List.append_nil] at hdone
    refine ⟨u.commit (classify a b s.cfg.deviceCount) a b, evs, _, rfl, hdone, ?_⟩
    rw [State.commit, setChain_chain, hchain]
    exact .committed a b ⟨ha, hb, hprobed⟩

/-- Every instruction ends in a response, after a run that leaves the ChainInfo registers in one of the ways of `Served`
(spec R312). -/
theorem exec_served (i : Instr) (s : State) : ServedFrom i s (exec i s) := by
  cases i with
  | status => exact servedFrom_respond _ s _
  | command cls cmd => exact servedFrom_serve rfl s
  | write cls cmd data =>
    show ServedFrom _ s (execWrite cls cmd data s)
    unfold execWrite
    split
    · exact servedFrom_serve rfl s
    · exact servedFrom_refuse _ s
  | read cls cmd => exact servedFrom_serve rfl s
  | wake port => exact servedFrom_activate _ s port _ _ _
  | ready port => exact servedFrom_activate _ s port _ _ _
  | init => exact servedFrom_execInit s
  | probe => exact servedFrom_execProbe s
  | crc15 bytes => exact servedFrom_respond _ s _
  | crc10 bytes counter =>
    show ServedFrom _ s (execCrc10 bytes counter s)
    unfold execCrc10
    split
    · exact servedFrom_respond _ s _
    · exact servedFrom_refuse _ s
  | buildcmd cmd => exact servedFrom_respond _ s _
  | buildwr port cmd count data =>
    show ServedFrom _ s (execBuildwr port cmd count data s)
    unfold execBuildwr
    split
    · exact servedFrom_respond _ s _
    · exact servedFrom_refuse _ s
  | parserd port count counter bytes =>
    show ServedFrom _ s (execParserd port count counter bytes s)
    unfold execParserd
    split
    · exact servedFrom_respond _ s _
    · exact servedFrom_refuse _ s
  | offset port index count =>
    show ServedFrom _ s (execOffset port index count s)
    unfold execOffset
    split
    · exact servedFrom_respond _ s _
    · exact servedFrom_refuse _ s
  | ctrreset cls => exact servedFrom_execCtrreset cls s

/-- Every way a step can end: the block waits, refuses what the decoder turns away, or executes an instruction. -/
theorem step_next {s t : State} (h : step s = .next t) :
    (s.host = [] ∧ t = s) ∨
    ∃ r rest, s.host = r :: rest ∧
      ((∃ e, decode r = .error e ∧ t = (s.accept r rest).refuse) ∨
       ∃ i, decode r = .ok i ∧ exec i (s.accept r rest) = .next t) := by
  unfold step State.nextRequest at h
  cases hbusy : s.ctl.busy with
  | true => simp [hbusy] at h
  | false =>
    cases hhost : s.host with
    | nil =>
      simp only [hbusy, hhost, Bool.false_eq_true, if_false, Host.Outcome.next.injEq] at h
      exact .inl ⟨rfl, h.symm⟩
    | cons r rest =>
      simp only [hbusy, hhost, Bool.false_eq_true, if_false] at h
      refine .inr ⟨r, rest, rfl, ?_⟩
      cases hdec : decode r with
      | error e =>
        simp only [hdec, Host.Outcome.next.injEq] at h
        exact .inl ⟨e, rfl, h.symm⟩
      | ok i =>
        simp only [hdec] at h
        exact .inr ⟨i, rfl, h⟩

/-! ## The ChainInfo registers of an instance (spec R34, R37, R41) -/

/-- What the invariant asks of the ChainInfo registers of an instance `c`. -/
structure ChainInfo.Fits (c : Params) (info : ChainInfo) : Prop where
  status : info.statusFits c.deviceCount
  availA : info.availA ≤ c.deviceCount
  availB : info.availB ≤ c.deviceCount
  tally : info.tally < c.dualPortLimit

theorem inv_iff (s : State) :
    s.Inv ↔ s.cfg.wf = true ∧ s.chain.Fits s.cfg ∧ s.ctl.busy = false ∧ s.ctl.phase = .idle ∧ s.cs = CsLines.idle :=
  ⟨fun ⟨hwf, hstatus, hA, hB, htally, hidle⟩ => ⟨hwf, ⟨hstatus, hA, hB, htally⟩, hidle⟩,
    fun ⟨hwf, ⟨hstatus, hA, hB, htally⟩, hidle⟩ => ⟨hwf, hstatus, hA, hB, htally, hidle⟩⟩

theorem fits_initial {c : Params} (hlimit : 0 < c.dualPortLimit) : (ChainInfo.initial c).Fits c where
  status := by simp [ChainInfo.statusFits, ChainInfo.initial]
  availA := le_refl _
  availB := le_refl _
  tally := hlimit

namespace ChainInfo.Fits

variable {c : Params} {info info' : ChainInfo} {evs : List Event}

theorem limit_pos (h : info.Fits c) : 0 < c.dualPortLimit := Nat.zero_lt_of_lt h.tally

/-- A tally that is kept or zeroed stays below the limit. -/
theorem ite_tally_lt (h : info.Fits c) (p : Prop) [Decidable p] : (if p then info.tally else 0) < c.dualPortLimit := by
  split
  · exact h.tally
  · exact h.limit_pos

/-- The port and the counters are free, and the tally is below its limit. -/
theorem rewrite (h : info.Fits c) (P : Port) (ctr : Counters) {t : Nat} (ht : t < c.dualPortLimit) :
    ({ info with currentPort := P, ctr := ctr, tally := t } : ChainInfo).Fits c :=
  ⟨h.status, h.availA, h.availB, ht⟩

/-- A probe's result fits, classified, with any counters. -/
theorem ofProbed {a b t : Nat} (hp : Probed c evs a b) (ctr : Counters) (ht : t < c.dualPortLimit) :
    ({ info with
        status := classify a b c.deviceCount, availA := a, availB := b, ctr := ctr, tally := t } : ChainInfo).Fits c :=
  ⟨classify_statusFits info a b c.deviceCount, hp.1, hp.2.1, ht⟩

theorem commit (h : info.Fits c) {a b : Nat} (hp : Probed c evs a b) :
    (info.commit (classify a b c.deviceCount) a b).Fits c := by
  refine ofProbed hp info.ctr ?_
  split
  · exact h.limit_pos
  · exact h.tally

theorem reprobeEnds {it : Iter} {v : Verdict} (h : info.Fits c) (hends : ReprobeEnds c it info evs v info') :
    info'.Fits c := by
  cases hends with
  | aborted => exact h
  | fault a b pf st hp hpf hst => exact (h.commit hp).rewrite _ _ (h.commit hp).tally
  | broken a b hp hit => exact h.commit hp
  | retry a b hp hit hcs => exact h.commit hp

theorem branchEnds {it : Iter} {op : Operation} {v : Verdict} (h : info.Fits c)
    (hends : BranchEnds c it op info evs v info') : info'.Fits c := by
  cases hends with
  | spi => exact h.rewrite _ _ (h.ite_tally_lt _)
  | full data hs => exact h.rewrite _ _ h.tally
  | fault r st hop hr hst => exact h.rewrite _ _ (h.ite_tally_lt _)
  | reprobed t _ _ ht hop hreprobe =>
    have htally : t < c.dualPortLimit := by
      rcases ht.1 with rfl | rfl
      · exact h.tally
      · exact h.limit_pos
    exact (h.rewrite info.currentPort info.ctr htally).reprobeEnds hreprobe
  | counted data hs ht =>
    have := h.tally
    exact h.rewrite _ _ (by omega)
  | limitAborted hs ht => exact h.rewrite _ _ h.limit_pos
  | limitFault a b pf st hs ht hp hpf hst => exact ofProbed hp _ h.limit_pos
  | limitPassed a b data hs ht hp => exact ofProbed hp _ h.limit_pos

theorem operationEnds {op : Operation} {st : TxStatus} {rd : Bytes} (h : info.Fits c)
    (hends : OperationEnds c op info evs st rd info') : info'.Fits c := by
  cases hends with
  | once hfirst => exact h.branchEnds hfirst
  | twice mid pre post hevs hfirst hsecond => exact (h.branchEnds hfirst).branchEnds hsecond

/-- Whatever is served, the ChainInfo registers still fit the instance. -/
theorem served {i : Instr} (h : info.Fits c) (hserved : Served c info evs i info') : info'.Fits c := by
  cases hserved with
  | unchanged => exact h
  | countersZeroed cls => exact h.rewrite _ _ h.tally
  | initialised => exact fits_initial h.limit_pos
  | committed a b hp => exact h.commit hp
  | operated _ op hop st rd _ hends => exact h.operationEnds hends

end ChainInfo.Fits

/-! ## The invariant -/

/-- A request served from a state with the lines idle leaves the invariant, whatever `busy` and the phase were. -/
theorem inv_of_served {i : Instr} {s t : State} (hwf : s.cfg.wf = true) (hfits : s.chain.Fits s.cfg)
    (hcs : s.cs = CsLines.idle) (h : ServedFrom i s (.next t)) : t.Inv := by
  obtain ⟨u, evs, r, heq, hran, hserved⟩ := h
  obtain rfl : t = u.respond r := by simpa using heq
  have hcfg : u.cfg = s.cfg := hran.cfg
  refine (inv_iff _).2 ⟨?_, ?_, rfl, rfl, (hran.cs hcs).1⟩
  · rw [respond_cfg, hcfg]
    exact hwf
  · rw [respond_cfg, respond_chain, hcfg]
    exact hfits.served hserved

/-- Settles O11: every way a step can end keeps the registers within the instance and ends with the block idle. -/
theorem stepKeepsTheInvariant : Obligations.StepKeepsTheInvariant := by
  unfold Obligations.StepKeepsTheInvariant
  intro s t hinv hstep
  obtain ⟨hwf, hfits, -, -, hcs⟩ := (inv_iff s).1 hinv
  rcases step_next hstep with ⟨-, rfl⟩ | ⟨r, rest, -, ⟨e, -, rfl⟩ | ⟨i, -, hexec⟩⟩
  · exact hinv
  · exact (inv_iff _).2 ⟨hwf, hfits, rfl, rfl, hcs⟩
  · refine inv_of_served (i := i) (s := s.accept r rest) hwf hfits hcs ?_
    rw [← hexec]
    exact exec_served i _

/-- The block holds the invariant at the reset of any instance within its bounds (spec R340 to R342). -/
theorem resetOf_inv {c : Params} (hwf : c.wf = true) : (State.resetOf c).Inv := by
  have hlimit : 0 < c.dualPortLimit := by
    simp only [Params.wf, Bool.and_eq_true, decide_eq_true_eq] at hwf
    omega
  exact (inv_iff _).2 ⟨hwf, fits_initial hlimit, rfl, rfl, rfl⟩

/-- Settles O10: the reset values by computation, the invariant from `resetOf_inv`. -/
theorem invariantAtReset : Obligations.InvariantAtReset :=
  ⟨fun _ => ⟨rfl, rfl, rfl, rfl, rfl⟩, fun _ => resetOf_inv, resetOf_inv (by decide)⟩

end Sys2Proof.Machine

/-! PROOFS. What may write each ChainInfo register: the tally is 0 outside `SingleBreak` and stays so, `status` and `avail`
change only with a probe, and `currentPort` only with a success over the whole chain (INIT apart). Each is read off the ends of a branch
of the outer loop (`BranchEnds`), then of an operation (`OperationEnds`), then of a request (`Served`). -/

namespace Sys2Proof.Machine

/-! ## The one answer of a request -/

/-- A run and its response are the only events with which a request can be said to be answered. -/
theorem Answered.unique {s u : State} {evs evs' : List Event} {r r' : Response} (hran : Ran s u evs')
    (ha : Answered s (u.respond r') evs r) : evs = evs' ∧ r = r' := by
  obtain ⟨htrace, -⟩ := ha
  rw [respond_trace, hran.trace, List.append_assoc, List.append_assoc] at htrace
  obtain ⟨hevs, hresp⟩ := List.append_inj' (List.append_cancel_left htrace) rfl
  simp only [List.cons.injEq, Event.response.injEq, and_true] at hresp
  exact ⟨hevs.symm, hresp.symm⟩

/-- What an answered instruction leaves of the ChainInfo registers, by the events of its answer. -/
theorem served_of_answered {i : Instr} {s t : State} {evs : List Event} {r : Response} (h : exec i s = .next t)
    (ha : Answered s t evs r) : Served s.cfg s.chain evs i t.chain := by
  obtain ⟨u, evs', r', heq, hran, hserved⟩ := exec_served i s
  obtain rfl : t = u.respond r' := by simpa [h] using heq
  obtain ⟨rfl, -⟩ := Answered.unique hran ha
  exact hserved

/-! ## COMMAND, WRITE and READ -/

/-- The instructions that serve an operation (spec R267 to R269). -/
theorem operationOf_eq_some {i : Instr} {op : Operation} (h : operationOf i = some op) :
    (op.kind = .command ∧ i = .command op.cls op.cmd) ∨ (op.kind = .write ∧ i = .write op.cls op.cmd op.data) ∨
      (op.kind = .read ∧ i = .read op.cls op.cmd) := by
  cases i with
  | command cls cmd => obtain rfl := Option.some.inj h; exact .inl ⟨rfl, rfl⟩
  | write cls cmd data => obtain rfl := Option.some.inj h; exact .inr (.inl ⟨rfl, rfl⟩)
  | read cls cmd => obtain rfl := Option.some.inj h; exact .inr (.inr ⟨rfl, rfl⟩)
  | _ => cases h

/-- Such an instruction is served, or refused where a WRITE's payload has another length than the chain needs. -/
theorem exec_operation {i : Instr} {op : Operation} (hop : operationOf i = some op) (s : State) :
    exec i s = .next (serve op s) ∨ exec i s = .next s.refuse := by
  cases i with
  | command cls cmd => obtain rfl := Option.some.inj hop; exact .inl rfl
  | write cls cmd data =>
    obtain rfl := Option.some.inj hop
    show execWrite cls cmd data s = _ ∨ execWrite cls cmd data s = _
    unfold execWrite
    split
    · exact .inl rfl
    · exact .inr rfl
  | read cls cmd => obtain rfl := Option.some.inj hop; exact .inl rfl
  | _ => cases hop

/-- An answered operation: refused with no register written, or ended as the outer loop can end, and answered with that
status. -/
theorem operation_answered {i : Instr} {op : Operation} {s t : State} {evs : List Event} {r : Response}
    (hop : operationOf i = some op) (h : exec i s = .next t) (ha : Answered s t evs r) :
    t.chain = s.chain ∨
      ∃ st rd, r = Response.ofStatus st rd ∧ OperationEnds s.cfg op s.chain evs st rd t.chain := by
  rcases exec_operation hop s with hserve | hrefuse
  · obtain rfl : t = serve op s := by simpa [h] using hserve
    obtain ⟨evs', hran, -, -, hends⟩ := operate_ran op s
    have hphase : Ran (operate op s).2 ((operate op s).2.enter .respond) [] := Ran.ofWrite rfl rfl rfl rfl rfl rfl rfl
    have hall := hran.trans hphase
    rw [List.append_nil] at hall
    obtain ⟨rfl, rfl⟩ := Answered.unique hall ha
    exact .inr ⟨_, _, rfl, hends⟩
  · obtain rfl : t = s.refuse := by simpa [h] using hrefuse
    exact .inl rfl

/-! ## The tally (spec R41) -/

/-- The tally counts within a SingleBreak period: it is 0 in any other chain status. -/
def ChainInfo.TallyConfined (info : ChainInfo) : Prop := info.status ≠ .singleBreak → info.tally = 0

namespace ChainInfo.TallyConfined

variable {c : Params} {info info' : ChainInfo} {evs : List Event}

/-- The port and the counters are free, and the tally may be kept or zeroed. -/
theorem rewrite (h : info.TallyConfined) (P : Port) (ctr : Counters) {t : Nat} (ht : t = info.tally ∨ t = 0) :
    ({ info with currentPort := P, ctr := ctr, tally := t } : ChainInfo).TallyConfined := by
  intro hs
  rcases ht with rfl | rfl
  · exact h hs
  · rfl

/-- A commit zeroes the tally where it changes the status, so none is carried out of `SingleBreak` (spec R228). -/
theorem commit (h : info.TallyConfined) (cs : ChainStatus) (a b : Nat) : (info.commit cs a b).TallyConfined := by
  intro hs
  by_cases hcs : cs = info.status
  · subst hcs
    simpa [ChainInfo.commit] using h hs
  · simp [ChainInfo.commit, hcs]

theorem reprobeEnds {it : Iter} {v : Verdict} (h : info.TallyConfined) (hends : ReprobeEnds c it info evs v info') :
    info'.TallyConfined := by
  cases hends with
  | aborted => exact h
  | fault a b pf st hp hpf hst => exact (h.commit _ a b).rewrite _ _ (.inl rfl)
  | broken a b hp hit => exact h.commit _ a b
  | retry a b hp hit hcs => exact h.commit _ a b

theorem branchEnds {it : Iter} {op : Operation} {v : Verdict} (h : info.TallyConfined)
    (hends : BranchEnds c it op info evs v info') : info'.TallyConfined := by
  cases hends with
  | spi => exact h.rewrite _ _ (ite_eq_or_eq _ _ _)
  | full data hs => exact h.rewrite _ _ (.inl rfl)
  | fault r st hop hr hst => exact h.rewrite _ _ (ite_eq_or_eq _ _ _)
  | reprobed t _ _ ht hop hreprobe => exact (h.rewrite info.currentPort info.ctr ht.1).reprobeEnds hreprobe
  | counted data hs ht => exact fun hns => absurd hs hns
  | limitAborted hs ht => exact fun _ => rfl
  | limitFault a b pf st hs ht hp hpf hst => exact fun _ => rfl
  | limitPassed a b data hs ht hp => exact fun _ => rfl

theorem operationEnds {op : Operation} {st : TxStatus} {rd : Bytes} (h : info.TallyConfined)
    (hends : OperationEnds c op info evs st rd info') : info'.TallyConfined := by
  cases hends with
  | once hfirst => exact h.branchEnds hfirst
  | twice mid pre post hevs hfirst hsecond => exact (h.branchEnds hfirst).branchEnds hsecond

/-- Whatever is served, the tally stays confined. -/
theorem served {i : Instr} (h : info.TallyConfined) (hserved : Served c info evs i info') : info'.TallyConfined := by
  cases hserved with
  | unchanged => exact h
  | countersZeroed cls => exact h.rewrite _ _ (.inl rfl)
  | initialised => exact fun _ => rfl
  | committed a b hp => exact h.commit _ a b
  | operated _ op hop st rd _ hends => exact h.operationEnds hends

end ChainInfo.TallyConfined

/-- Settles O12: a step waits, refuses or serves, and none of them takes a tally out of `SingleBreak`. -/
theorem tallyIsZeroOutsideSingleBreak : Obligations.TallyIsZeroOutsideSingleBreak := by
  unfold Obligations.TallyIsZeroOutsideSingleBreak
  intro s t hconfined hstep
  rcases step_next hstep with ⟨-, rfl⟩ | ⟨r, rest, -, ⟨e, -, rfl⟩ | ⟨i, -, hexec⟩⟩
  · exact hconfined
  · exact hconfined
  · obtain ⟨u, evs, resp, heq, -, hserved⟩ := exec_served i (s.accept r rest)
    obtain rfl : t = u.respond resp := by simpa [hexec] using heq
    have hstart : (s.accept r rest).chain.TallyConfined := hconfined
    exact hstart.served hserved

/-! ## The chain status and the counts (spec R35, R36) -/

/-- `status` and `avail` are the same. -/
def ChainInfo.SameTopology (info info' : ChainInfo) : Prop :=
  info'.status = info.status ∧ info'.availA = info.availA ∧ info'.availB = info.availB

theorem ChainInfo.SameTopology.refl (info : ChainInfo) : info.SameTopology info := ⟨rfl, rfl, rfl⟩

theorem ChainInfo.SameTopology.trans {x y z : ChainInfo} (h : x.SameTopology y) (k : y.SameTopology z) :
    x.SameTopology z := by
  obtain ⟨hstatus, hA, hB⟩ := h
  obtain ⟨kstatus, kA, kB⟩ := k
  exact ⟨kstatus.trans hstatus, kA.trans hA, kB.trans hB⟩

section Topology

variable {c : Params} {info info' : ChainInfo} {evs : List Event}

theorem Probed.probedIn {a b : Nat} (hp : Probed c evs a b) : ProbedIn c evs := by
  obtain ⟨-, -, hprobed⟩ := hp
  exact hprobed

theorem ReprobeEnds.sameTopology_or_probedIn {it : Iter} {v : Verdict} (h : ReprobeEnds c it info evs v info') :
    info.SameTopology info' ∨ ProbedIn c evs := by
  cases h with
  | aborted => exact .inl (.refl _)
  | fault a b pf st hp hpf hst => exact .inr hp.probedIn
  | broken a b hp hit => exact .inr hp.probedIn
  | retry a b hp hit hcs => exact .inr hp.probedIn

theorem BranchEnds.sameTopology_or_probedIn {it : Iter} {op : Operation} {v : Verdict}
    (h : BranchEnds c it op info evs v info') : info.SameTopology info' ∨ ProbedIn c evs := by
  cases h with
  | spi => exact .inl ⟨rfl, rfl, rfl⟩
  | full data hs => exact .inl ⟨rfl, rfl, rfl⟩
  | fault r st hop hr hst => exact .inl ⟨rfl, rfl, rfl⟩
  | reprobed t _ _ ht hop hreprobe => exact hreprobe.sameTopology_or_probedIn
  | counted data hs ht => exact .inl ⟨rfl, rfl, rfl⟩
  | limitAborted hs ht => exact .inl ⟨rfl, rfl, rfl⟩
  | limitFault a b pf st hs ht hp hpf hst => exact .inr hp.probedIn
  | limitPassed a b data hs ht hp => exact .inr hp.probedIn

theorem OperationEnds.sameTopology_or_probedIn {op : Operation} {st : TxStatus} {rd : Bytes}
    (h : OperationEnds c op info evs st rd info') : info.SameTopology info' ∨ ProbedIn c evs := by
  cases h with
  | once hfirst => exact hfirst.sameTopology_or_probedIn
  | twice mid pre post hevs hfirst hsecond =>
    subst hevs
    rcases hfirst.sameTopology_or_probedIn with hmid | hprobed
    · rcases hsecond.sameTopology_or_probedIn with hlast | hprobed
      · exact .inl (hmid.trans hlast)
      · exact .inr (hprobed.prepend pre)
    · exact .inr (hprobed.append post)

/-- Besides INIT, what changes `status` or `avail` is a PROBE or an operation, and it probes (spec R35, R220). -/
theorem Served.sameTopology_or_probedIn {i : Instr} (h : Served c info evs i info') (hinit : i ≠ .init) :
    info.SameTopology info' ∨ (i = .probe ∨ ∃ op, operationOf i = some op) ∧ ProbedIn c evs := by
  cases h with
  | unchanged => exact .inl (.refl _)
  | countersZeroed cls => exact .inl ⟨rfl, rfl, rfl⟩
  | initialised => exact absurd rfl hinit
  | committed a b hp => exact .inr ⟨.inl rfl, hp.probedIn⟩
  | operated _ op hop st rd _ hends =>
    exact hends.sameTopology_or_probedIn.imp_right fun hprobed => ⟨.inr ⟨op, hop⟩, hprobed⟩

end Topology

/-- Settles O56: every commit rests on a probe, whose events begin each port's scan with a 1-slot frame. -/
theorem chainStatusChangesOnlyByProbe : Obligations.ChainStatusChangesOnlyByProbe := by
  unfold Obligations.ChainStatusChangesOnlyByProbe
  intro i s t evs r hn hinit hexec ha hchange
  rcases (served_of_answered hexec ha).sameTopology_or_probedIn hinit with ⟨hstatus, hA, hB⟩ | ⟨hinstr, hprobed⟩
  · rcases hchange with hne | hne | hne
    · exact absurd hstatus hne
    · exact absurd hA hne
    · exact absurd hB hne
  · refine ⟨hinstr.imp_right ?_, hprobed hn⟩
    rintro ⟨op, hop⟩
    exact ⟨op.cls, op.cmd, op.data,
      (operationOf_eq_some hop).imp And.right (Or.imp And.right And.right)⟩

/-! ## The current port (spec R38) -/

section CurrentPort

variable {c : Params} {info info' : ChainInfo} {evs : List Event}

/-- A re-probe leaves the port, whatever it finds. -/
theorem ReprobeEnds.currentPort_eq {it : Iter} {v : Verdict} (h : ReprobeEnds c it info evs v info') :
    info'.currentPort = info.currentPort := by
  cases h <;> rfl

/-- A branch flips the port only where a WRITE or READ succeeds on a complete chain (spec R258). -/
theorem BranchEnds.currentPort_eq_or_full {it : Iter} {op : Operation} {v : Verdict}
    (h : BranchEnds c it op info evs v info') :
    info'.currentPort = info.currentPort ∨
      (∃ data, v = .done .success data) ∧ op.kind ≠ .command ∧ info'.status = .complete := by
  cases h with
  | full data hs =>
    by_cases hcmd : op.kind = .command
    · exact .inl (if_pos hcmd)
    · exact .inr ⟨⟨data, rfl⟩, hcmd, hs⟩
  | reprobed t _ _ ht hop hreprobe => exact .inl hreprobe.currentPort_eq
  | _ => exact .inl rfl

theorem OperationEnds.currentPort_eq_or_full {op : Operation} {st : TxStatus} {rd : Bytes}
    (h : OperationEnds c op info evs st rd info') :
    info'.currentPort = info.currentPort ∨ st = .success ∧ op.kind ≠ .command ∧ info'.status = .complete := by
  cases h with
  | once hfirst =>
    refine hfirst.currentPort_eq_or_full.imp_right ?_
    rintro ⟨⟨data, hv⟩, hfull⟩
    exact ⟨(Verdict.done.inj hv).1, hfull⟩
  | twice mid pre post hevs hfirst hsecond =>
    have hmid : mid.currentPort = info.currentPort :=
      hfirst.currentPort_eq_or_full.resolve_right fun ⟨⟨_, hv⟩, _⟩ => nomatch hv
    rw [← hmid]
    refine hsecond.currentPort_eq_or_full.imp_right ?_
    rintro ⟨⟨data, hv⟩, hfull⟩
    exact ⟨(Verdict.done.inj hv).1, hfull⟩

/-- Only INIT and the operations can change the port. -/
theorem Served.currentPort_eq_or {i : Instr} (h : Served c info evs i info') :
    info'.currentPort = info.currentPort ∨ i = .init ∨ ∃ op, operationOf i = some op := by
  cases h with
  | initialised => exact .inr (.inl rfl)
  | operated _ op hop st rd _ hends => exact .inr (.inr ⟨op, hop⟩)
  | _ => exact .inl rfl

end CurrentPort

/-- Settles O57: of the ends of an operation only the success on a complete chain flips the port, and its status is the
response's. -/
theorem currentPortFlipsOnlyOnFullChainSuccess : Obligations.CurrentPortFlipsOnlyOnFullChainSuccess := by
  unfold Obligations.CurrentPortFlipsOnlyOnFullChainSuccess
  intro i s t evs r hexec ha hflip
  rcases (served_of_answered hexec ha).currentPort_eq_or.resolve_left hflip with hinit | ⟨op, hop⟩
  · exact .inl hinit
  · rcases operation_answered hop hexec ha with hsame | ⟨st, rd, rfl, hends⟩
    · exact absurd (congrArg ChainInfo.currentPort hsame) hflip
    · obtain ⟨rfl, hkind, hcomplete⟩ := hends.currentPort_eq_or_full.resolve_left hflip
      refine .inr ⟨⟨op.cls, op.cmd, op.data, ?_⟩, rfl, hcomplete⟩
      exact ((operationOf_eq_some hop).resolve_left fun h => hkind h.1).imp And.right And.right

end Sys2Proof.Machine

/-! PROOFS. The encoding of requests (30_encoding.md): the decoder inverts the encoder and accepts nothing else, and a
request or an instruction that fails a check of R97 is refused with nothing written. On the way, once: when the decoder
accepts a request (`decode_eq_ok`), and what the encoder makes of the operands a request carries (`encode_instrOf`). -/

namespace Sys2Proof.Machine

/-! ## The descriptor and its fields (spec R91) -/

@[simp] theorem rsvField_mkDesc (port : BitVec 1) (cls : BitVec 2) (op : BitVec 4) (cmd : Word) :
    rsvField (mkDesc port cls op cmd) = 0 := by
  rw [rsvField, mkDesc, BitVec.extractLsb'_append_eq_of_le (by decide), BitVec.extractLsb'_append_eq_of_le (by decide),
    BitVec.extractLsb'_append_eq_of_le (by decide), BitVec.extractLsb'_append_eq_of_le (by decide)]
  exact BitVec.extractLsb'_eq_self

@[simp] theorem portField_mkDesc (port : BitVec 1) (cls : BitVec 2) (op : BitVec 4) (cmd : Word) :
    portField (mkDesc port cls op cmd) = port := by
  rw [portField, mkDesc, BitVec.extractLsb'_append_eq_of_le (by decide), BitVec.extractLsb'_append_eq_of_le (by decide),
    BitVec.extractLsb'_append_eq_of_le (by decide), BitVec.extractLsb'_append_eq_of_add_le (by decide)]
  exact BitVec.extractLsb'_eq_self

@[simp] theorem clsField_mkDesc (port : BitVec 1) (cls : BitVec 2) (op : BitVec 4) (cmd : Word) :
    clsField (mkDesc port cls op cmd) = cls := by
  rw [clsField, mkDesc, BitVec.extractLsb'_append_eq_of_le (by decide), BitVec.extractLsb'_append_eq_of_le (by decide),
    BitVec.extractLsb'_append_eq_of_add_le (by decide)]
  exact BitVec.extractLsb'_eq_self

@[simp] theorem opField_mkDesc (port : BitVec 1) (cls : BitVec 2) (op : BitVec 4) (cmd : Word) :
    opField (mkDesc port cls op cmd) = op := by
  rw [opField, mkDesc, BitVec.extractLsb'_append_eq_of_le (by decide), BitVec.extractLsb'_append_eq_of_add_le (by decide)]
  exact BitVec.extractLsb'_eq_self

@[simp] theorem cmdField_mkDesc (port : BitVec 1) (cls : BitVec 2) (op : BitVec 4) (cmd : Word) :
    cmdField (mkDesc port cls op cmd) = cmd := by
  rw [cmdField, mkDesc, BitVec.extractLsb'_append_eq_of_add_le (by decide)]
  exact BitVec.extractLsb'_eq_self

/-- A descriptor without reserved bits is made of its fields. -/
theorem mkDesc_fields {desc : BitVec 32} (hrsv : rsvField desc = 0) :
    mkDesc (portField desc) (clsField desc) (opField desc) (cmdField desc) = desc := by
  have hall : rsvField desc ++ portField desc ++ clsField desc ++ opField desc ++ cmdField desc = desc := by
    simp only [rsvField, portField, clsField, opField, cmdField]
    rw [BitVec.extractLsb'_append_extractLsb'_eq_extractLsb' (by decide),
      BitVec.extractLsb'_append_extractLsb'_eq_extractLsb' (by decide),
      BitVec.extractLsb'_append_extractLsb'_eq_extractLsb' (by decide),
      BitVec.extractLsb'_append_extractLsb'_eq_extractLsb' (by decide)]
    exact BitVec.extractLsb'_eq_self
  rwa [hrsv] at hall

/-! ## The codes of ports, classes and operations (spec R93, R95, R96) -/

@[simp] theorem portOfBits_portBits (P : Port) : portOfBits (portBits P) = P := by cases P <;> rfl

@[simp] theorem portBits_portOfBits (b : BitVec 1) : portBits (portOfBits b) = b := by
  revert b
  decide

@[simp] theorem classOfBits_classBits (cls : DevClass) : classOfBits (classBits cls) = some cls := by cases cls <;> rfl

theorem classBits_of_classOfBits {b : BitVec 2} {cls : DevClass} (h : classOfBits b = some cls) :
    classBits cls = b := by
  revert b
  cases cls <;> decide

@[simp] theorem opOfCode_opCode (op : Op) : opOfCode (opCode op) = some op := by cases op <;> rfl

theorem opCode_of_opOfCode {code : BitVec 4} {op : Op} (h : opOfCode code = some op) : opCode op = code := by
  revert code
  cases op <;> decide

/-! ## The decoder (spec R97 checks 1 to 5, R102) -/

theorem unusedDescZero_iff {u : Uses} {desc : BitVec 32} :
    unusedDescZero u desc = true ↔
      (u.cmd = false → cmdField desc = 0) ∧ (u.cls = false → clsField desc = 0) ∧
        (u.port = false → portField desc = 0) := by
  simp [unusedDescZero, ← Bool.not_eq_true, or_iff_not_imp_left, and_assoc]

theorem unusedRecordEmpty_iff {u : Uses} {r : Request} :
    unusedRecordEmpty u r = true ↔
      (u.data = false → r.data = []) ∧ (u.bytes = false → r.bytes = []) ∧ (u.count = false → r.count = 0) ∧
        (u.index = false → r.index = 0) ∧ (u.counter = false → r.counter = 0) := by
  simp [unusedRecordEmpty, ← Bool.not_eq_true, or_iff_not_imp_left, and_assoc]

/-- The request passes the checks 1 to 5 of spec R97 as a request for `op` of class `cls`. An op that reads no class has
its `CLS` 0 by check 3, so that check 5 can be made of every op. -/
structure Accepts (r : Request) (op : Op) (cls : DevClass) : Prop where
  code : opOfCode (opField r.desc) = some op
  rsv : rsvField r.desc = 0
  desc : unusedDescZero (opUses op) r.desc = true
  record : unusedRecordEmpty (opUses op) r = true
  clsBits : classOfBits (clsField r.desc) = some cls

/-- The decoder accepts exactly the requests that pass the checks, and reads the operands the op uses. -/
theorem decode_eq_ok {r : Request} {i : Instr} :
    decode r = .ok i ↔ ∃ op cls, Accepts r op cls ∧ i = instrOf op cls r := by
  constructor
  · intro h
    unfold decode at h
    split at h
    · cases h
    next op hop =>
      split at h
      · cases h
      next hrsv =>
        split at h
        · cases h
        next hdesc =>
          split at h
          · cases h
          next hrecord =>
            split at h
            next cls hcls =>
              cases h
              exact ⟨op, cls, ⟨hop, by simpa using hrsv, by simpa using hdesc, by simpa using hrecord, hcls⟩, rfl⟩
            · cases h
  · rintro ⟨op, cls, ⟨hop, hrsv, hdesc, hrecord, hcls⟩, rfl⟩
    simp [decode, hop, hrsv, hdesc, hrecord, hcls]

/-! ## Decoding what was encoded -/

@[simp] theorem opField_encode (i : Instr) : opField (encode i).desc = opCode i.op := by
  cases i <;> exact opField_mkDesc _ _ _ _

@[simp] theorem rsvField_encode (i : Instr) : rsvField (encode i).desc = 0 := by
  cases i <;> exact rsvField_mkDesc _ _ _ _

/-- The encoder leaves 0 or empty what the op does not use. -/
theorem unused_encode (i : Instr) :
    unusedDescZero (opUses i.op) (encode i).desc = true ∧ unusedRecordEmpty (opUses i.op) (encode i) = true := by
  rw [unusedDescZero_iff, unusedRecordEmpty_iff]
  cases i <;> simp [encode, Instr.op, opUses, Request.ofDesc]

/-- The class an encoded request carries is one of the three, and with it the request reads back as the instruction. -/
theorem instrOf_encode (i : Instr) :
    ∃ cls, classOfBits (clsField (encode i).desc) = some cls ∧ instrOf i.op cls (encode i) = i := by
  cases i with
  | command cls | write cls | read cls | ctrreset cls =>
    exact ⟨cls, by simp [encode, Request.ofDesc], by simp [encode, Request.ofDesc, Instr.op, instrOf]⟩
  | _ =>
    exact ⟨.cell, by simp [encode, Request.ofDesc, classOfBits], by simp [encode, Request.ofDesc, Instr.op, instrOf]⟩

/-- Settles O1: the encoded request passes every check, and carries each operand in its field. -/
theorem decodeOfEncode : Obligations.DecodeOfEncode := by
  unfold Obligations.DecodeOfEncode
  intro i
  obtain ⟨cls, hcls, hinstr⟩ := instrOf_encode i
  obtain ⟨hdesc, hrecord⟩ := unused_encode i
  exact decode_eq_ok.2 ⟨i.op, cls, ⟨by simp, by simp, hdesc, hrecord, hcls⟩, hinstr.symm⟩

/-! ## Encoding what was decoded -/

/-- The encoding of the instruction a request reads as keeps the fields the op uses and clears the others (spec R94,
R120). -/
theorem encode_instrOf (op : Op) (cls : DevClass) (r : Request) :
    encode (instrOf op cls r) =
      { desc := mkDesc (if (opUses op).port then portField r.desc else 0)
          (if (opUses op).cls then classBits cls else 0) (opCode op)
          (if (opUses op).cmd then cmdField r.desc else 0)
        data := if (opUses op).data then r.data else []
        bytes := if (opUses op).bytes then r.bytes else []
        count := if (opUses op).count then r.count else 0
        index := if (opUses op).index then r.index else 0
        counter := if (opUses op).counter then r.counter else 0 } := by
  cases op <;> simp [encode, instrOf, opUses, Instr.op, Request.ofDesc]

/-- Clearing a field that is clear wherever it is not used changes nothing. -/
theorem ite_used_eq {α : Type} {used : Bool} {x zero : α} (h : used = false → x = zero) :
    (if used then x else zero) = x := by
  cases used with
  | true => rfl
  | false => exact (h rfl).symm

/-- Settles O2: the checks say that the fields the encoder clears were clear. -/
theorem encodeOfDecode : Obligations.EncodeOfDecode := by
  unfold Obligations.EncodeOfDecode
  intro r i h
  obtain ⟨op, cls, ⟨hop, hrsv, hdesc, hrecord, hcls⟩, rfl⟩ := decode_eq_ok.1 h
  obtain ⟨hcmd, hclass, hport⟩ := unusedDescZero_iff.1 hdesc
  obtain ⟨hdata, hbytes, hcount, hindex, hcounter⟩ := unusedRecordEmpty_iff.1 hrecord
  rw [encode_instrOf, classBits_of_classOfBits hcls, opCode_of_opOfCode hop, ite_used_eq hport, ite_used_eq hclass,
    ite_used_eq hcmd, mkDesc_fields hrsv, ite_used_eq hdata, ite_used_eq hbytes, ite_used_eq hcount,
    ite_used_eq hindex, ite_used_eq hcounter]

/-- Settles O3, word by word. -/
theorem specDescriptorsDecode : Obligations.SpecDescriptorsDecode := by
  unfold Obligations.SpecDescriptorsDecode
  decide

/-! ## Refused requests (spec R99, R101) -/

/-- An idle block refuses a request that the decoder reads as no instruction: it latches the request and answers
`IllegalRequest`. -/
theorem step_of_rejected {s : State} {r : Request} {rest : List Request} (hbusy : s.ctl.busy = false)
    (hhost : s.host = r :: rest) (hreject : ∀ i, decode r ≠ .ok i) : step s = .next (s.accept r rest).refuse := by
  unfold step State.nextRequest
  rw [hbusy, hhost]
  cases hdec : decode r with
  | ok i => exact absurd hdec (hreject i)
  | error e => simp [hdec]

/-- Settles O4: an accepted request has an op, no reserved bit and a class. -/
theorem reservedEncodingsAreRefused : Obligations.ReservedEncodingsAreRefused := by
  unfold Obligations.ReservedEncodingsAreRefused
  intro s r rest hbusy hhost hreserved
  refine step_of_rejected hbusy hhost fun i hdec => ?_
  obtain ⟨op, cls, ⟨hop, hrsv, -, -, hcls⟩, -⟩ := decode_eq_ok.1 hdec
  rcases hreserved with hF | hbits | hclass
  · rw [opField, hF] at hop
    cases hop
  · exact hbits hrsv
  · rw [clsField, hclass] at hcls
    cases hcls

/-- Settles O5: an accepted request is one for this op, so every field the op does not use is clear. -/
theorem unusedFieldsAreRefused : Obligations.UnusedFieldsAreRefused := by
  unfold Obligations.UnusedFieldsAreRefused
  intro s r rest op hbusy hhost hop hunused
  refine step_of_rejected hbusy hhost fun i hdec => ?_
  obtain ⟨op', cls, ⟨hop', -, hdesc, hrecord, -⟩, -⟩ := decode_eq_ok.1 hdec
  obtain rfl : op' = op := Option.some.inj (hop'.symm.trans hop)
  obtain ⟨hcmd, hclass, hport⟩ := unusedDescZero_iff.1 hdesc
  obtain ⟨hdata, hbytes, hcount, hindex, hcounter⟩ := unusedRecordEmpty_iff.1 hrecord
  rcases hunused with ⟨hu, hne⟩ | ⟨hu, hne⟩ | ⟨hu, hne⟩ | ⟨hu, hne⟩ | ⟨hu, hne⟩ | ⟨hu, hne⟩ | ⟨hu, hne⟩ | ⟨hu, hne⟩
  · exact hne (hcmd hu)
  · exact hne (hclass hu)
  · exact hne (hport hu)
  · exact hne (hdata hu)
  · exact hne (hbytes hu)
  · exact hne (hcount hu)
  · exact hne (hindex hu)
  · exact hne (hcounter hu)

/-! ## The operand checks (spec R97 checks 6 to 9, R98) -/

/-- The two spellings of check 7 agree: "not 0" and "at least 1". -/
theorem countOk_eq_countFits (c : Params) (count : BitVec 32) : countOk c count = countFits c count := by
  simp [countOk, countFits, Nat.one_le_iff_ne_zero]

/-! Each meaning that checks operands makes the checks of `Instr.wf`, and refuses where they fail. -/

theorem exec_write (cls : DevClass) (cmd : Word) (data : Bytes) (s : State) :
    exec (.write cls cmd data) s =
      if (Instr.write cls cmd data).wf s.cfg then
        .next (serve { kind := .write, cls := cls, cmd := cmd, data := data } s)
      else .next s.refuse := rfl

theorem exec_crc10 (bytes : Bytes) (counter : BitVec 8) (s : State) :
    exec (.crc10 bytes counter) s =
      if (Instr.crc10 bytes counter).wf s.cfg then
        .next (s.respond (Response.ofValue ((dataCrc s.cfg bytes (counter.setWidth 6)).setWidth 32)))
      else .next s.refuse := rfl

theorem exec_buildwr (port : Port) (cmd : Word) (count : BitVec 32) (data : Bytes) (s : State) :
    exec (.buildwr port cmd count data) s =
      if (Instr.buildwr port cmd count data).wf s.cfg then
        .next (s.respond (Response.ofStatus .success
          (buildWriteFrame s.cfg cmd data port count.toNat count.toNat)))
      else .next s.refuse := by
  rw [Instr.wf, ← countOk_eq_countFits]
  rfl

theorem exec_parserd (port : Port) (count : BitVec 32) (counter : BitVec 8) (bytes : Bytes) (s : State) :
    exec (.parserd port count counter bytes) s =
      if (Instr.parserd port count counter bytes).wf s.cfg then
        let parsed := parseFrame s.cfg bytes port count.toNat count.toNat fun _ => some (counter.setWidth 6)
        .next (s.respond (Response.ofStatus parsed.1 (parsed.2.flat count.toNat)))
      else .next s.refuse := by
  rw [Instr.wf, ← countOk_eq_countFits]
  rfl

theorem exec_offset (port : Port) (index count : BitVec 32) (s : State) :
    exec (.offset port index count) s =
      if (Instr.offset port index count).wf s.cfg then
        let slot := slotOf port index.toNat count.toNat
        .next (s.respond (Response.ofValue (BitVec.ofNat 16 slot ++ BitVec.ofNat 16 (slotOffset slot))))
      else .next s.refuse := by
  rw [Instr.wf, ← countOk_eq_countFits]
  rfl

/-- An ill-formed instruction is refused (spec R99). -/
theorem exec_of_illFormed {i : Instr} {s : State} (h : i.wf s.cfg = false) : exec i s = .next s.refuse := by
  have hnot : ¬ i.wf s.cfg = true := by simp [h]
  cases i with
  | write cls cmd data => rw [exec_write, if_neg hnot]
  | crc10 bytes counter => rw [exec_crc10, if_neg hnot]
  | buildwr port cmd count data => rw [exec_buildwr, if_neg hnot]
  | parserd port count counter bytes => rw [exec_parserd, if_neg hnot]
  | offset port index count => rw [exec_offset, if_neg hnot]
  | _ => exact absurd rfl hnot

/-! ## The status of a served instruction (spec R103) -/

theorem code_ne_illegalCode (st : TxStatus) : st.code ≠ illegalCode := by cases st <;> decide

/-- The outcome is a response whose status is one of the transaction statuses. -/
def AnsweredWithTxStatus (o : Host.Outcome State Fault Refusal) : Prop :=
  ∃ (u : State) (r : Response) (st : TxStatus), o = .next (u.respond r) ∧ r.status = st.code

theorem answeredWithTxStatus_ofStatus (u : State) (st : TxStatus) (data : Bytes) :
    AnsweredWithTxStatus (.next (u.respond (Response.ofStatus st data))) := ⟨u, _, st, rfl, rfl⟩

theorem answeredWithTxStatus_ofValue (u : State) (value : BitVec 32) :
    AnsweredWithTxStatus (.next (u.respond (Response.ofValue value))) := ⟨u, _, .success, rfl, rfl⟩

theorem answeredWithTxStatus_probeOutcome (p : ProbeResult × State) : AnsweredWithTxStatus (.next (probeOutcome p)) := by
  obtain ⟨result, u⟩ := p
  cases result with
  | spiError => exact answeredWithTxStatus_ofStatus u .spiError []
  | found cs avA avB pf => exact ⟨u.commit cs avA avB, _, pf, rfl, rfl⟩

/-- A well-formed instruction is served: its response has a transaction status. -/
theorem exec_of_wellFormed {i : Instr} {s : State} (h : i.wf s.cfg = true) : AnsweredWithTxStatus (exec i s) := by
  cases i with
  | status => exact ⟨s, _, .success, rfl, rfl⟩
  | command cls cmd | read cls cmd => exact answeredWithTxStatus_ofStatus _ _ _
  | write cls cmd data =>
    rw [exec_write, if_pos h]
    exact answeredWithTxStatus_ofStatus _ _ _
  | wake port | ready port => exact answeredWithTxStatus_ofStatus _ _ _
  | init => exact answeredWithTxStatus_ofStatus _ _ _
  | probe => exact answeredWithTxStatus_probeOutcome _
  | crc15 bytes => exact answeredWithTxStatus_ofValue _ _
  | crc10 bytes counter =>
    rw [exec_crc10, if_pos h]
    exact answeredWithTxStatus_ofValue _ _
  | buildcmd cmd => exact answeredWithTxStatus_ofStatus _ _ _
  | buildwr port cmd count data =>
    rw [exec_buildwr, if_pos h]
    exact answeredWithTxStatus_ofStatus _ _ _
  | parserd port count counter bytes =>
    rw [exec_parserd, if_pos h]
    exact answeredWithTxStatus_ofStatus _ _ _
  | offset port index count =>
    rw [exec_offset, if_pos h]
    exact answeredWithTxStatus_ofValue _ _
  | ctrreset cls => exact answeredWithTxStatus_ofStatus _ _ _

/-- The response of an answered request is the one it ended with. -/
theorem Answered.response_eq {s u : State} {evs : List Event} {r r' : Response}
    (ha : Answered s (u.respond r') evs r) : r = r' := by
  obtain ⟨htrace, -⟩ := ha
  rw [respond_trace] at htrace
  simpa using (List.append_inj' htrace rfl).2.symm

/-- Settles O6: the checks of each meaning are those of `Instr.wf`, and no transaction status has the code of
`IllegalRequest`. -/
theorem illegalRequestExactlyWhenIllFormed : Obligations.IllegalRequestExactlyWhenIllFormed := by
  unfold Obligations.IllegalRequestExactlyWhenIllFormed
  refine ⟨fun i s hwf => exec_of_illFormed hwf, ?_⟩
  intro i s t evs r hwf hexec ha
  obtain ⟨u, r', st, heq, hstatus⟩ := exec_of_wellFormed hwf
  obtain rfl : t = u.respond r' := by simpa [hexec] using heq
  rw [ha.response_eq, hstatus]
  exact code_ne_illegalCode st

end Sys2Proof.Machine

/-! PROOFS. The CRC engine (40_crc.md). Four facts about one register carry the family. It is linear: a difference of
two registers moves on by itself, as a register fed zeros (`crcBits_xor`). Bits may be added at the top of the register
and zeros shifted through, as the tables do (`crcBits_msbFirst`). A nonzero difference with no term below the
generator's lowest one stays nonzero (`crcBits_zeros_ne_zero`). And one shift is multiplication by `x` modulo the
generator (`gf2_crcShift`). -/

namespace Sys2Proof.Machine

/-! ## Bit strings -/

theorem msbFirst_getD {w : Nat} (v : BitVec w) (i : Nat) : (msbFirst v).getD i false = v.getMsbD i := by
  by_cases hi : i < w
  · simp [msbFirst, hi]
  · simp [msbFirst, hi, BitVec.getMsbD_of_ge v i (by omega)]

/-- A zero shifted in behind the bits pushes the top bit out in front. -/
theorem msbFirst_append_false {w : Nat} (r : BitVec w) : msbFirst r ++ [false] = r.msb :: msbFirst (r <<< 1) := by
  calc msbFirst r ++ [false] = (List.range (w + 1)).map r.getMsbD := by simp [msbFirst, List.range_succ]
    _ = r.msb :: msbFirst (r <<< 1) := by
      simp [List.range_succ_eq_map, msbFirst, BitVec.msb, Function.comp_def]

/-- A value at the top of a register of `w` bits: where the tables put their index (spec R137, R142). -/
def atTop (w : Nat) {n : Nat} (v : BitVec n) : BitVec w := v.setWidth w <<< (w - n)

theorem getMsbD_atTop {w n : Nat} (h : n ≤ w) (v : BitVec n) (i : Nat) : (atTop w v).getMsbD i = v.getMsbD i := by
  rw [atTop, BitVec.getMsbD_shiftLeft, BitVec.getMsbD_setWidth, show i + (w - n) + n - w = i by omega]
  simp

/-! ## The register is linear -/

/-- The generator, as one shift adds it: where the bit shifted out is 1. -/
def gatedBy {w : Nat} (b : Bool) (p : BitVec w) : BitVec w := if b then p else 0

theorem gatedBy_xor {w : Nat} (a b : Bool) (p : BitVec w) : gatedBy (a ^^ b) p = gatedBy a p ^^^ gatedBy b p := by
  cases a <;> cases b <;> simp [gatedBy]

@[simp] theorem gatedBy_false {w : Nat} (p : BitVec w) : gatedBy false p = 0#w := rfl

@[simp] theorem gatedBy_true {w : Nat} (p : BitVec w) : gatedBy true p = p := rfl

/-- One shift, the bits that decide on the generator apart. -/
theorem crcShift_eq {w : Nat} (p r : BitVec w) (b : Bool) :
    crcShift p r b = r <<< 1 ^^^ gatedBy r.msb p ^^^ gatedBy b p := by
  rw [BitVec.xor_assoc, ← gatedBy_xor]
  unfold crcShift gatedBy
  split <;> simp

/-- Bits may be added to the register instead of being shifted in: the top one decides on the generator, the others move
up. -/
theorem crcShift_false_xor {w : Nat} (p r t : BitVec w) :
    crcShift p (r ^^^ t) false = crcShift p r t.msb ^^^ t <<< 1 := by
  simp only [crcShift_eq, BitVec.msb_xor, BitVec.shiftLeft_xor_distrib, gatedBy_xor, gatedBy_false, BitVec.xor_zero]
  ac_rfl

/-- A difference in the register moves on by itself. -/
theorem crcShift_xor {w : Nat} (p r d : BitVec w) (b : Bool) :
    crcShift p (r ^^^ d) b = crcShift p r b ^^^ crcShift p d false := by
  simp only [crcShift_eq, BitVec.msb_xor, BitVec.shiftLeft_xor_distrib, gatedBy_xor, gatedBy_false, BitVec.xor_zero]
  ac_rfl

theorem crcBits_xor {w : Nat} (p r d : BitVec w) (bits : List Bool) :
    crcBits p (r ^^^ d) bits = crcBits p r bits ^^^ crcBits p d (List.replicate bits.length false) := by
  induction bits generalizing r d with
  | nil => rfl
  | cons b bits ih =>
    rw [crcBits_cons, crcShift_xor, ih]
    rfl

/-- The other input bit differs by the generator. -/
theorem crcShift_not {w : Nat} (p r : BitVec w) (b : Bool) : crcShift p r (!b) = crcShift p r b ^^^ p := by
  rw [← Bool.xor_true, crcShift_eq, crcShift_eq, gatedBy_xor, gatedBy_true, BitVec.xor_assoc (_ ^^^ _)]

/-- The other bit at one place of the string differs by the generator, moved on by the bits after it. -/
theorem crcBits_flip {w : Nat} (p r : BitVec w) (pre post : List Bool) (b : Bool) :
    crcBits p r (pre ++ (!b) :: post) =
      crcBits p r (pre ++ b :: post) ^^^ crcBits p p (List.replicate post.length false) := by
  rw [crcBits_append, crcBits_append, crcBits_cons, crcBits_cons, crcShift_not, crcBits_xor]

/-- Folding bits in one by one is adding them at the top of the register, `t`, and shifting zeros through. -/
theorem crcBits_eq_of_getMsbD {w : Nat} (p r t : BitVec w) (bits : List Bool)
    (ht : ∀ i, t.getMsbD i = bits.getD i false) :
    crcBits p r bits = crcBits p (r ^^^ t) (List.replicate bits.length false) := by
  induction bits generalizing r t with
  | nil =>
    have h0 : t = 0 := BitVec.eq_of_getMsbD_eq fun i _ => by simpa using ht i
    simp [h0]
  | cons b bits ih =>
    have hb : t.msb = b := by simpa [BitVec.msb] using ht 0
    have hrest : ∀ i, (t <<< 1).getMsbD i = bits.getD i false := fun i => by
      rw [BitVec.getMsbD_shiftLeft, ht (i + 1)]
      rfl
    rw [crcBits_cons, ih _ _ hrest, ← hb, ← crcShift_false_xor]
    rfl

/-- The bits of a value that the register has room for, added at its top. -/
theorem crcBits_msbFirst {w n : Nat} (h : n ≤ w) (p r : BitVec w) (v : BitVec n) :
    crcBits p r (msbFirst v) = crcBits p (r ^^^ atTop w v) (List.replicate n false) := by
  rw [crcBits_eq_of_getMsbD p r (atTop w v) (msbFirst v) fun i => by rw [getMsbD_atTop h, msbFirst_getD],
    msbFirst_length]

/-- As long as zeros are shifted out, the shifts are plain shifts. -/
theorem crcBits_zeros_of_top_zero {w : Nat} (p r : BitVec w) (n : Nat) (h : ∀ i < n, r.getMsbD i = false) :
    crcBits p r (List.replicate n false) = r <<< n := by
  induction n generalizing r with
  | zero => simp
  | succ n ih =>
    have hmsb : r.msb = false := h 0 (by omega)
    have hshift : crcShift p r false = r <<< 1 := by simp [crcShift, hmsb]
    rw [List.replicate_succ, crcBits_cons, hshift, Nat.add_comm, BitVec.shiftLeft_add]
    exact ih _ fun i hi => by rw [BitVec.getMsbD_shiftLeft]; exact h _ (by omega)

/-! ## The table forms (spec R133, R137, R141, R142) -/

theorem atTop_xor {w n : Nat} (u v : BitVec n) : atTop w (u ^^^ v) = atTop w u ^^^ atTop w v := by
  rw [atTop, BitVec.setWidth_xor, BitVec.shiftLeft_xor_distrib]
  rfl

/-- Adding `v` at the top is adding `u` there and then the difference of the two. -/
theorem xor_atTop {w n : Nat} (r : BitVec w) (u v : BitVec n) :
    r ^^^ atTop w v = (r ^^^ atTop w u) ^^^ atTop w (u ^^^ v) := by
  rw [atTop_xor, BitVec.xor_assoc, ← BitVec.xor_assoc (atTop w u) (atTop w u), BitVec.xor_self, BitVec.zero_xor]

/-- A value at the top of the register leaves it in as many shifts as it has bits. -/
theorem atTop_shiftLeft {w n : Nat} (h : n ≤ w) (v : BitVec n) : atTop w v <<< n = 0#w :=
  BitVec.eq_of_getMsbD_eq fun i _ => by
    rw [BitVec.getMsbD_shiftLeft, getMsbD_atTop h, BitVec.getMsbD_of_ge v _ (by omega), BitVec.getMsbD_zero]

/-- One step of a table form: the register's top byte and the input byte are the index, the rest moves up by 8. -/
theorem crcBits_msbFirst_byte {w : Nat} (hw : 8 ≤ w) (p r : BitVec w) (b : Byte) :
    crcBits p r (msbFirst b) = r <<< 8 ^^^ foldZeroByte p (atTop w (r.extractLsb' (w - 8) 8 ^^^ b)) := by
  have hrest : ∀ i < 8, (r ^^^ atTop w (r.extractLsb' (w - 8) 8)).getMsbD i = false := by
    intro i hi
    rw [BitVec.getMsbD_xor, getMsbD_atTop hw, BitVec.getMsbD_extractLsb', show w - (w - 8 + 8 - i) = i by omega]
    simp [hi]
    omega
  rw [crcBits_msbFirst hw, xor_atTop r (r.extractLsb' (w - 8) 8), crcBits_xor,
    crcBits_zeros_of_top_zero p _ 8 hrest, BitVec.shiftLeft_xor_distrib, atTop_shiftLeft hw, BitVec.xor_zero]
  rfl

theorem append_zero_shiftLeft {w : Nat} (r : BitVec w) : (r ++ 0#1) <<< 1 = r <<< 1 ++ 0#1 :=
  BitVec.eq_of_getMsbD_eq fun i _ => by
    rw [BitVec.getMsbD_shiftLeft, BitVec.getMsbD_append, BitVec.getMsbD_append, BitVec.getMsbD_shiftLeft,
      BitVec.getMsbD_zero, BitVec.getMsbD_zero]
    by_cases hi : w ≤ i
    · rw [if_pos hi, if_pos (by omega)]
    · rw [if_neg hi]
      split
      · exact (BitVec.getMsbD_of_ge r _ ‹_›).symm
      · rfl

/-- A 0 below the register stays below it when the generator has one below it too. -/
theorem crcShift_append_zero {w : Nat} (hw : w ≠ 0) (p r : BitVec w) (b : Bool) :
    crcShift (p ++ 0#1) (r ++ 0#1) b = crcShift p r b ++ 0#1 := by
  unfold crcShift
  rw [BitVec.msb_append, if_neg hw, append_zero_shiftLeft]
  split
  · rw [BitVec.xor_append, BitVec.xor_self]
  · rfl

theorem crcBytes_append_zero {w : Nat} (hw : w ≠ 0) (p r : BitVec w) (bs : Bytes) :
    crcBytes (p ++ 0#1) (r ++ 0#1) bs = crcBytes p r bs ++ 0#1 := by
  rw [crcBytes_eq_crcBits, crcBytes_eq_crcBits]
  exact List.foldl_hom (· ++ 0#1) (crcShift_append_zero hw p)

/-- Settles O18: each step of a table form is the shifts of one byte, and the 16-bit register is the 15-bit one with a 0
below it. -/
theorem crcTableFormsAgree : Obligations.CrcTableFormsAgree := by
  unfold Obligations.CrcTableFormsAgree
  intro c bs
  constructor
  · calc commandCrcByTable c bs = crcBytes (poly16 c) (c.crc15Seed ++ 0#1) bs :=
          List.foldl_ext _ _ _ fun r b _ => (crcBits_msbFirst_byte (by decide) (poly16 c) r b).symm
      _ = commandCrc c bs := crcBytes_append_zero (by decide) c.crc15Poly c.crc15Seed bs
  · exact List.foldl_ext _ _ _ fun r b _ => (crcBits_msbFirst_byte (by decide) (crc10Low c) r b).symm

/-! ## Differences that never die out -/

/-- A value's terms of degree below `m` are all absent. -/
def NoTermBelow {w : Nat} (m : Nat) (d : BitVec w) : Prop := ∀ i < m, d.getLsbD i = false

theorem noTermBelow_zero {w : Nat} (d : BitVec w) : NoTermBelow 0 d := fun _ hi => absurd hi (Nat.not_lt_zero _)

theorem exists_lowest_term {w : Nat} {p : BitVec w} (hp : p ≠ 0#w) :
    ∃ m, p.getLsbD m = true ∧ NoTermBelow m p := by
  have hex : ∃ m, p.getLsbD m = true := by
    by_contra hnone
    exact hp (BitVec.eq_of_getLsbD_eq fun i _ => by simpa using fun h => hnone ⟨i, h⟩)
  exact ⟨Nat.find hex, Nat.find_spec hex, fun i hi => by simpa using Nat.find_min hex hi⟩

/-- A nonzero difference with no term below the generator's lowest one, `m`, keeps both when a zero is shifted in:
where the generator is added, the term `m` appears. -/
theorem crcShift_false_ne_zero {w m : Nat} {p d : BitVec w} (hm : p.getLsbD m = true) (hp : NoTermBelow m p)
    (hd : NoTermBelow m d) (hne : d ≠ 0#w) :
    crcShift p d false ≠ 0#w ∧ NoTermBelow m (crcShift p d false) := by
  have hlow : NoTermBelow (m + 1) (d <<< 1) := by
    intro i hi
    rw [BitVec.getLsbD_shiftLeft]
    cases i with
    | zero => simp
    | succ i => simp [hd i (by omega)]
  cases hmsb : d.msb with
  | true =>
    have hshift : crcShift p d false = d <<< 1 ^^^ p := by simp [crcShift, hmsb]
    rw [hshift]
    refine ⟨fun hzero => ?_, fun i hi => ?_⟩
    · have hbit : (d <<< 1 ^^^ p).getLsbD m = true := by rw [BitVec.getLsbD_xor, hlow m (by omega), hm]; rfl
      rw [hzero] at hbit
      simp at hbit
    · rw [BitVec.getLsbD_xor, hlow i (by omega), hp i hi]
      rfl
  | false =>
    have hshift : crcShift p d false = d <<< 1 := by simp [crcShift, hmsb]
    rw [hshift]
    refine ⟨fun hzero => hne (BitVec.eq_of_getMsbD_eq fun i _ => ?_), fun i hi => hlow i (by omega)⟩
    rw [BitVec.getMsbD_zero]
    cases i with
    | zero => exact hmsb
    | succ i => rw [← BitVec.getMsbD_shiftLeft, hzero, BitVec.getMsbD_zero]

theorem crcBits_zeros_ne_zero {w m : Nat} {p d : BitVec w} (hm : p.getLsbD m = true) (hp : NoTermBelow m p)
    (hd : NoTermBelow m d) (hne : d ≠ 0#w) (n : Nat) : crcBits p d (List.replicate n false) ≠ 0#w := by
  induction n generalizing d with
  | zero => exact hne
  | succ n ih =>
    obtain ⟨hne', hd'⟩ := crcShift_false_ne_zero hm hp hd hne
    exact ih hd' hne'

/-- With a constant term in the generator, strings of bits that the register has room for give different registers. -/
theorem crcBits_msbFirst_injective {w n : Nat} (hn : n ≤ w) {p : BitVec w} (hp : p.getLsbD 0 = true) (r : BitVec w)
    {x y : BitVec n} (h : crcBits p r (msbFirst x) = crcBits p r (msbFirst y)) : x = y := by
  have hdiff : crcBits p (atTop w (x ^^^ y)) (List.replicate n false) = 0#w := by
    rw [crcBits_msbFirst hn, crcBits_msbFirst hn, xor_atTop r x y, crcBits_xor p (r ^^^ atTop w x),
      List.length_replicate] at h
    exact ((BitVec.xor_right_inj _).1 (BitVec.xor_zero.trans h)).symm
  have hzero : atTop w (x ^^^ y) = 0#w := by
    by_contra hne
    exact crcBits_zeros_ne_zero hp (noTermBelow_zero p) (noTermBelow_zero _) hne n hdiff
  refine BitVec.xor_eq_zero_iff.1 (BitVec.eq_of_getMsbD_eq fun i _ => ?_)
  rw [← getMsbD_atTop hn, hzero, BitVec.getMsbD_zero, BitVec.getMsbD_zero]

/-- Settles O19: the 6 counter bits are folded last, and the register has room for them. -/
theorem countersGiveDifferentDataCrcs : Obligations.CountersGiveDifferentDataCrcs := by
  unfold Obligations.CountersGiveDifferentDataCrcs
  intro c bs x y hconst hne heq
  have hlow : (crc10Low c).getLsbD 0 = true := by simpa [crc10Low] using hconst
  exact hne (crcBits_msbFirst_injective (by decide) hlow _ heq)

/-! ## One flipped bit (spec R143) -/

/-- The two bit strings differ in exactly one place. -/
inductive OneBitApart : List Bool → List Bool → Prop where
  | mk (pre post : List Bool) (b : Bool) : OneBitApart (pre ++ b :: post) (pre ++ (!b) :: post)

namespace OneBitApart

theorem between {xs ys : List Bool} (h : OneBitApart xs ys) (before after : List Bool) :
    OneBitApart (before ++ xs ++ after) (before ++ ys ++ after) := by
  obtain ⟨pre, post, b⟩ := h
  simpa using mk (before ++ pre) (post ++ after) b

/-- For a generator of more than one term, the register tells the two strings apart: the difference enters as the
generator, and stays nonzero down to the generator's lowest term. -/
theorem crcBits_ne {w : Nat} {p : BitVec w} (hp : p ≠ 0#w) (r : BitVec w) {xs ys : List Bool}
    (h : OneBitApart xs ys) : crcBits p r ys ≠ crcBits p r xs := by
  obtain ⟨pre, post, b⟩ := h
  obtain ⟨m, hm, hlow⟩ := exists_lowest_term hp
  rw [crcBits_flip]
  intro heq
  exact crcBits_zeros_ne_zero hm hlow hlow hp post.length ((BitVec.xor_right_inj _).1 (heq.trans BitVec.xor_zero.symm))

end OneBitApart

theorem msbFirst_xor_bit {w : Nat} (v : BitVec w) {b : Nat} (hb : b < w) :
    OneBitApart (msbFirst v) (msbFirst (v ^^^ 1#w <<< b)) := by
  have hflip : msbFirst (v ^^^ 1#w <<< b) = (msbFirst v).modify (w - 1 - b) not := by
    refine List.ext_getElem (by simp) fun i hi _ => ?_
    have hiw : i < w := by simpa using hi
    have hbit : (1#w <<< b).getMsbD i = decide (w - 1 - b = i) := by
      rw [BitVec.getMsbD_shiftLeft, BitVec.getMsbD_eq_getLsbD, BitVec.getLsbD_one]
      grind
    rw [List.getElem_modify]
    simp only [msbFirst, List.getElem_map, List.getElem_range, BitVec.getMsbD_xor, hbit]
    split
    next hflipped => rw [decide_eq_true hflipped, Bool.xor_true]
    next hkept => rw [decide_eq_false hkept, Bool.xor_false]
  obtain ⟨pre, bit, post, hsplit, -, hmodify⟩ := List.exists_of_modify not (i := w - 1 - b) (l := msbFirst v)
    (by rw [msbFirst_length]; omega)
  rw [hflip, hmodify, hsplit]
  exact .mk pre post bit

theorem flatMap_msbFirst_modify (bs : Bytes) {j b : Nat} (hj : j < bs.length) (hb : b < 8) :
    OneBitApart (bs.flatMap msbFirst) ((bs.modify j fun x => x ^^^ 1#8 <<< b).flatMap msbFirst) := by
  obtain ⟨pre, x, post, hsplit, -, hmodify⟩ := List.exists_of_modify (fun x => x ^^^ 1#8 <<< b) hj
  rw [hmodify, hsplit]
  simpa using (msbFirst_xor_bit x hb).between (pre.flatMap msbFirst) (post.flatMap msbFirst)

theorem modify_append_of_lt {α : Type} (f : α → α) {xs : List α} {j : Nat} (hj : j < xs.length) (ys : List α) :
    (xs ++ ys).modify j f = xs.modify j f ++ ys := by
  rw [List.modify_eq_take_cons_drop hj, List.modify_eq_take_cons_drop (by rw [List.length_append]; omega),
    List.getElem_append_left hj, List.take_append_of_le_length (by omega), List.drop_append_of_le_length (by omega)]
  simp

theorem modify_append_of_le {α : Type} (f : α → α) {xs : List α} {j : Nat} (hj : xs.length ≤ j) (ys : List α) :
    (xs ++ ys).modify j f = xs ++ ys.modify (j - xs.length) f := by
  rw [List.modify_eq_take_drop, List.modify_eq_take_drop, List.take_append, List.drop_append,
    List.take_of_length_le hj, List.drop_of_length_le hj, List.nil_append, List.append_assoc]

/-! ### The slot check on a flipped frame (spec R112, R177) -/

/-- A flip in a payload bit changes the CRC. -/
theorem dataCrc_payload_flip {c : Params} (hp : crc10Low c ≠ 0#10) {pay : Bytes} {j b : Nat} (hj : j < pay.length)
    (hb : b < 8) (ctr : BitVec 6) :
    dataCrc c (pay.modify j fun x => x ^^^ 1#8 <<< b) ctr ≠ dataCrc c pay ctr := by
  rw [dataCrc_eq_crcBits, dataCrc_eq_crcBits]
  exact ((flatMap_msbFirst_modify pay hj hb).between [] (msbFirst ctr)).crcBits_ne hp _

/-- A flip in a counter bit changes the CRC. -/
theorem dataCrc_counter_flip {c : Params} (hp : crc10Low c ≠ 0#10) (pay : Bytes) (ctr : BitVec 6) {b : Nat}
    (hb : b < 6) : dataCrc c pay (ctr ^^^ 1#6 <<< b) ≠ dataCrc c pay ctr :=
  (msbFirst_xor_bit ctr hb).crcBits_ne hp _

theorem pecCounter_xor (u v : Word) : pecCounter (u ^^^ v) = pecCounter u ^^^ pecCounter v := BitVec.extractLsb'_xor

theorem pecCrc_xor (u v : Word) : pecCrc (u ^^^ v) = pecCrc u ^^^ pecCrc v := BitVec.extractLsb'_xor

/-- Bits 9:0 of a PEC word are the CRC's. -/
theorem pec_crc_bit : ∀ k < 10, pecCounter (1#16 <<< k) = 0#6 ∧ pecCrc (1#16 <<< k) ≠ 0#10 := by decide

/-- Bits 15:10 of a PEC word are the counter's. -/
theorem pec_counter_bit :
    ∀ b < 6, pecCounter (1#16 <<< (10 + b)) = 1#6 <<< b ∧ pecCrc (1#16 <<< (10 + b)) = 0#10 := by decide

theorem hiByte_xor (u v : Word) : hiByte (u ^^^ v) = hiByte u ^^^ hiByte v := BitVec.extractLsb'_xor

theorem loByte_xor (u v : Word) : loByte (u ^^^ v) = loByte u ^^^ loByte v := BitVec.extractLsb'_xor

/-- Bits 7:0 of a word are in its second wire byte. -/
theorem loByte_bit : ∀ b < 8, hiByte (1#16 <<< b) = 0#8 ∧ loByte (1#16 <<< b) = 1#8 <<< b := by decide

/-- Bits 15:8 of a word are in its first wire byte. -/
theorem hiByte_bit : ∀ b < 8, hiByte (1#16 <<< (8 + b)) = 1#8 <<< b ∧ loByte (1#16 <<< (8 + b)) = 0#8 := by decide

/-- A flip in a wire byte is a flip in the word. -/
theorem wireWord_flip (w : Word) {j b : Nat} (hj : j < 2) (hb : b < 8) :
    ∃ k < 16, ((wireWord w).modify j fun x => x ^^^ 1#8 <<< b) = wireWord (w ^^^ 1#16 <<< k) := by
  obtain rfl | rfl : j = 0 ∨ j = 1 := by omega
  · obtain ⟨hhi, hlo⟩ := hiByte_bit b hb
    refine ⟨8 + b, by omega, ?_⟩
    rw [wireWord, wireWord, hiByte_xor, loByte_xor, hhi, hlo, BitVec.xor_zero]
    rfl
  · obtain ⟨hhi, hlo⟩ := loByte_bit b hb
    refine ⟨b, by omega, ?_⟩
    rw [wireWord, wireWord, hiByte_xor, loByte_xor, hhi, hlo, BitVec.xor_zero]
    rfl

/-- A flip in the payload makes the slot fail: the CRC it carries is that of the payload as sent. -/
theorem slotCrcOk_payload_flip {c : Params} (hp : crc10Low c ≠ 0#10) {pay : Bytes} {j b : Nat} (hj : j < pay.length)
    (hb : b < 8) (ctr : BitVec 6) :
    slotCrcOk c (pay.modify j fun x => x ^^^ 1#8 <<< b) (dataPec c pay ctr) = false := by
  rw [slotCrcOk, dataPec, pecCounter_append, pecCrc_append]
  exact beq_false_of_ne (dataCrc_payload_flip hp hj hb ctr)

/-- A flip in the PEC word makes the slot fail: in bits 9:0 the compared CRC changes and the computed one does not, in
bits 15:10 the computed one changes. -/
theorem slotCrcOk_pec_flip {c : Params} (hp : crc10Low c ≠ 0#10) (pay : Bytes) (ctr : BitVec 6) {k : Nat}
    (hk : k < 16) : slotCrcOk c pay (dataPec c pay ctr ^^^ 1#16 <<< k) = false := by
  rw [slotCrcOk, pecCounter_xor, pecCrc_xor, dataPec, pecCounter_append, pecCrc_append]
  refine beq_false_of_ne ?_
  by_cases hcrc : k < 10
  · obtain ⟨hcounter, hne⟩ := pec_crc_bit k hcrc
    rw [hcounter, BitVec.xor_zero]
    exact fun heq => hne ((BitVec.xor_right_inj _).1 (heq.symm.trans BitVec.xor_zero.symm))
  · obtain ⟨b, rfl⟩ : ∃ b, k = 10 + b := ⟨k - 10, by omega⟩
    obtain ⟨hcounter, hzero⟩ := pec_counter_bit b (by omega)
    rw [hcounter, hzero, BitVec.xor_zero]
    exact dataCrc_counter_flip hp pay ctr (by omega)

/-- A register frame with a flipped bit is a payload and a PEC word that fail the slot check. -/
theorem registerFrame_flip {c : Params} (hp : crc10Low c ≠ 0#10) {pay : Bytes} (hpay : pay.length = 6)
    (ctr : BitVec 6) {j b : Nat} (hj : j < 8) (hb : b < 8) :
    ∃ pay' pw', ((registerFrame c pay ctr).modify j fun x => x ^^^ 1#8 <<< b) = pay' ++ wireWord pw' ∧
      pay'.length = 6 ∧ slotCrcOk c pay' pw' = false := by
  by_cases hin : j < pay.length
  · refine ⟨_, _, ?_, ?_, slotCrcOk_payload_flip hp hin hb ctr⟩
    · exact modify_append_of_lt _ hin _
    · rw [List.length_modify, hpay]
  · obtain ⟨k, hk, hflip⟩ := wireWord_flip (dataPec c pay ctr) (j := j - pay.length) (by omega) hb
    refine ⟨pay, _, ?_, hpay, slotCrcOk_pec_flip hp pay ctr hk⟩
    rw [registerFrame, ← hflip, modify_append_of_le _ (by omega)]

/-! ### The frame of one slot (spec R191) -/

section OneSlot

variable {head pay : Bytes} (pw : Word) (hhead : head.length = 4) (hpay : pay.length = 6)

include hhead hpay

theorem slotPayload_first : slotPayload (head ++ (pay ++ wireWord pw)) 0 = pay := by
  rw [slotPayload, slotOffset, List.drop_left' (by omega), List.take_left' hpay]

theorem slotPec_first : slotPec (head ++ (pay ++ wireWord pw)) 0 = pw := by
  have hbyte : ∀ i, (head ++ (pay ++ wireWord pw)).getD (slotOffset 0 + (6 + i)) 0 = (wireWord pw).getD i 0 := by
    intro i
    rw [slotOffset, List.getD_append_right _ _ _ _ (by omega), List.getD_append_right _ _ _ _ (by omega)]
    congr 1
    omega
  exact (congrArg₂ (· ++ ·) (hbyte 0) (hbyte 1)).trans (hiByte_append_loByte pw)

/-- PARSERD of one slot that fails its CRC check is a chain break, whatever counter it expects. -/
theorem exec_parserd_of_badSlot {s : State} (P : Port) {counter : BitVec 8} (hmax : 1 ≤ s.cfg.maxDevices)
    (hcounter : counter.toNat ≤ 63) (hbad : slotCrcOk s.cfg pay pw = false) :
    exec (.parserd P 1 counter (head ++ (pay ++ wireWord pw))) s =
      .next (s.respond (Response.ofStatus .chainBreakError [])) := by
  have hwf : (Instr.parserd P 1 counter (head ++ (pay ++ wireWord pw))).wf s.cfg = true := by
    simp [Instr.wf, counterFits, countFits, hmax, hcounter, hhead, hpay]
  have hslot : ∀ e, slotResult s.cfg (head ++ (pay ++ wireWord pw)) P 1 e 0 = .chainBreakError := by
    intro e
    simp [slotResult, slotStatus, slotPayload_first pw hhead hpay, slotPec_first pw hhead hpay, hbad]
  have hparse : ∀ e, parseFrame s.cfg (head ++ (pay ++ wireWord pw)) P 1 1 e = (.chainBreakError, []) := by
    intro e
    simp [parseFrame, frameStatus, hslot]
  rw [exec_parserd, if_pos hwf]
  show Host.Outcome.next (s.respond (Response.ofStatus (parseFrame s.cfg _ P 1 1 _).1
    ((parseFrame s.cfg _ P 1 1 _).2.flat 1))) = _
  rw [hparse]
  rfl

end OneSlot

/-- Settles O26: the flipped frame is one slot that fails its CRC check. -/
theorem anyFlippedBitIsAChainBreak : Obligations.AnyFlippedBitIsAChainBreak := by
  unfold Obligations.AnyFlippedBitIsAChainBreak
  intro s P counter head pay rc j b hmax hcounter hp hhead hpay hj hb
  obtain ⟨pay', pw', hframe, hpay', hbad⟩ := registerFrame_flip hp hpay rc hj hb
  rw [hframe, exec_parserd_of_badSlot pw' hhead hpay' P hmax hcounter hbad]
  rfl

/-! ## Remainders over GF(2) (spec R131, R138) -/

section Remainder

open Polynomial (X)

theorem gf2_append (xs ys : List Bool) : gf2 (xs ++ ys) = gf2 xs * X ^ ys.length + gf2 ys := by
  induction ys using List.reverseRecOn with
  | nil => simp [gf2]
  | append_singleton ys b ih =>
    have hsnoc : ∀ zs, gf2 (zs ++ [b]) = gf2 zs * X + if b then 1 else 0 := by simp [gf2]
    rw [← List.append_assoc, hsnoc, hsnoc, ih, List.length_append, List.length_singleton]
    ring

theorem gf2_cons (b : Bool) (bits : List Bool) : gf2 (b :: bits) = gf2 [b] * X ^ bits.length + gf2 bits :=
  gf2_append [b] bits

theorem gf2_snoc (bits : List Bool) (b : Bool) : gf2 (bits ++ [b]) = gf2 bits * X + gf2 [b] := by
  simp [gf2_append]

@[simp] theorem gf2_nil : gf2 [] = 0 := rfl

@[simp] theorem gf2_false : gf2 [false] = 0 := by simp [gf2]

@[simp] theorem gf2_true : gf2 [true] = 1 := by simp [gf2]

theorem gf2_bit_xor (a b : Bool) : gf2 [a ^^ b] = gf2 [a] + gf2 [b] := by
  cases a <;> cases b <;> simp [CharTwo.add_self_eq_zero]

/-- Adding two values bit by bit adds their polynomials. -/
theorem gf2_msbFirst_xor {w : Nat} (u v : BitVec w) :
    gf2 (msbFirst (u ^^^ v)) = gf2 (msbFirst u) + gf2 (msbFirst v) := by
  have hmap : ∀ (l : List Nat) (f g : Nat → Bool),
      gf2 (l.map fun i => f i ^^ g i) = gf2 (l.map f) + gf2 (l.map g) := by
    intro l f g
    induction l with
    | nil => simp
    | cons i l ih =>
      simp only [List.map_cons]
      rw [gf2_cons, gf2_cons (f i), gf2_cons (g i), ih, gf2_bit_xor]
      simp only [List.length_map]
      ring
  rw [msbFirst, msbFirst, msbFirst, ← hmap]
  exact congrArg gf2 (List.map_congr_left fun i _ => BitVec.getMsbD_xor)

@[simp] theorem gf2_msbFirst_zero {w : Nat} : gf2 (msbFirst (0#w)) = 0 := by
  simpa using gf2_msbFirst_xor (0#w) (0#w)

theorem gf2_msbFirst_gatedBy {w : Nat} (b : Bool) (p : BitVec w) :
    gf2 (msbFirst (gatedBy b p)) = gf2 [b] * gf2 (msbFirst p) := by
  cases b <;> simp

/-- A left shift multiplies by `x`, except for the bit that leaves the register. -/
theorem gf2_msbFirst_mul_X {w : Nat} (r : BitVec w) :
    gf2 (msbFirst r) * X = gf2 [r.msb] * X ^ w + gf2 (msbFirst (r <<< 1)) := by
  have h := congrArg gf2 (msbFirst_append_false r)
  rwa [gf2_snoc, gf2_cons r.msb, gf2_false, add_zero, msbFirst_length] at h

/-- The generator of a register of `w` bits: `x^w` and the coefficients below it. -/
noncomputable def generator {w : Nat} (p : BitVec w) : Polynomial (ZMod 2) := X ^ w + gf2 (msbFirst p)

/-- One input bit multiplies the register by `x` and adds the bit times `x^w`, modulo the generator. -/
theorem gf2_crcShift {w : Nat} (p r : BitVec w) (b : Bool) :
    gf2 (msbFirst r) * X + gf2 [b] * X ^ w + gf2 (msbFirst (crcShift p r b)) = gf2 [r.msb ^^ b] * generator p := by
  rw [gf2_msbFirst_mul_X, crcShift_eq, gf2_msbFirst_xor, gf2_msbFirst_xor, gf2_msbFirst_gatedBy, gf2_msbFirst_gatedBy,
    gf2_bit_xor, generator]
  linear_combination CharTwo.add_self_eq_zero (gf2 (msbFirst (r <<< 1)))

/-- The register is the remainder: the seed shifted past the bits, the bits times `x^w` and the register make a multiple
of the generator. -/
theorem crcBits_remainder {w : Nat} (p r : BitVec w) (bits : List Bool) :
    ∃ q, gf2 (msbFirst r) * X ^ bits.length + gf2 bits * X ^ w + gf2 (msbFirst (crcBits p r bits)) =
      q * generator p := by
  induction bits using List.reverseRecOn with
  | nil => exact ⟨0, by simp [CharTwo.add_self_eq_zero]⟩
  | append_singleton bits b ih =>
    obtain ⟨q, hq⟩ := ih
    have hstep := gf2_crcShift p (crcBits p r bits) b
    refine ⟨q * X + gf2 [(crcBits p r bits).msb ^^ b], ?_⟩
    rw [crcBits_append, crcBits_cons, crcBits_nil, gf2_snoc, List.length_append, List.length_singleton, pow_succ]
    linear_combination X * hq + hstep - CharTwo.add_self_eq_zero (gf2 (msbFirst (crcBits p r bits)) * X)

theorem flatMap_msbFirst_length (bs : Bytes) : (bs.flatMap msbFirst).length = 8 * bs.length :=
  flatMap_length_const msbFirst 8 bs fun b _ => msbFirst_length b

/-- Settles O15: the register after the bits of the bytes. -/
theorem commandCrcIsTheRemainder : Obligations.CommandCrcIsTheRemainder := by
  unfold Obligations.CommandCrcIsTheRemainder
  intro c bs
  rw [crc15Of, crcBytes_eq_crcBits, ← flatMap_msbFirst_length]
  exact crcBits_remainder c.crc15Poly c.crc15Seed (bs.flatMap msbFirst)

/-- Settles O16: the register after the data bits and then the counter bits. -/
theorem dataCrcIsTheRemainder : Obligations.DataCrcIsTheRemainder := by
  unfold Obligations.DataCrcIsTheRemainder
  intro c bs ctr
  have hlen : 8 * bs.length + 6 = (bs.flatMap msbFirst ++ msbFirst ctr).length := by
    rw [List.length_append, flatMap_msbFirst_length, msbFirst_length]
  rw [hlen, dataCrc_eq_crcBits]
  exact crcBits_remainder (crc10Low c) c.crc10Seed (bs.flatMap msbFirst ++ msbFirst ctr)

end Remainder

/-! ## The command CRC word and the two instructions (spec R132, R135, R140) -/

/-- Settles O17: the word is the remainder above one 0 bit. -/
theorem commandCrcWordLayout : Obligations.CommandCrcWordLayout := by
  unfold Obligations.CommandCrcWordLayout
  intro c bs
  constructor
  · rw [commandCrc, BitVec.extractLsb'_append_eq_of_le (by decide)]
    exact BitVec.extractLsb'_eq_self
  · rw [commandCrc, BitVec.getLsbD_append]
    rfl

/-- Settles O20: CRC15 checks no operand, and its meaning is the response. -/
theorem crc15Answers : Obligations.Crc15Answers := by
  unfold Obligations.Crc15Answers
  intro bs s
  rfl

/-- Settles O21: a counter up to 63 passes its check. -/
theorem crc10Answers : Obligations.Crc10Answers := by
  unfold Obligations.Crc10Answers
  intro bs counter s hcounter
  have hwf : (Instr.crc10 bs counter).wf s.cfg = true := decide_eq_true hcounter
  have hctr : counter.setWidth 6 = counter.extractLsb' 0 6 := BitVec.setWidth_eq_extractLsb' (by decide)
  rw [exec_crc10, if_pos hwf, hctr]
  rfl

end Sys2Proof.Machine

/-! PROOFS. The frame encoder and decoder (41_framing.md). A payload and a PEC word at a slot of a buffer are what the
parser reads there (`slot_of_bytes`), so slot `j` of a write frame reads as its device's payload with counter 0
(`slotPayload_buildWriteFrame`, `slotPec_buildWriteFrame`); the status of a frame is that of one of its slots and no
slot's is worse (`frameStatus_attained`, `rank_slotResult_le`); and device `i` of a full frame is read from its own slot
(`flat_frameData`). -/

namespace Sys2Proof.Machine

/-! ## Devices and slots (spec R161, R164) -/

/-- The two maps of R164 are one reflection, or the identity. -/
theorem slotOf_eq_devOf (P : Port) (i n : Nat) : slotOf P i n = devOf P i n := by cases P <;> rfl

theorem slotOf_lt {P : Port} {i n : Nat} (h : i < n) : slotOf P i n < n := by
  rw [slotOf_eq_devOf]
  exact devOf_lt h

theorem slotOf_devOf {P : Port} {j n : Nat} (h : j < n) : slotOf P (devOf P j n) n = j := by
  rw [slotOf_eq_devOf, devOf_devOf h]

theorem devOf_slotOf {P : Port} {i n : Nat} (h : i < n) : devOf P (slotOf P i n) n = i := by
  rw [slotOf_eq_devOf, devOf_devOf h]

theorem slotOf_eq_ite (P : Port) (i n : Nat) : slotOf P i n = if P = .B then i else n - 1 - i := by
  cases P <;> rfl

/-- On port A the slots run through the reachable devices from the last one down. -/
theorem reverse_devOf_eq_reachable {k n : Nat} (h : k ≤ n) :
    ((List.range k).map fun j => devOf .A j n).reverse = reachable .A k n := by
  refine List.ext_getElem (by simp [reachable]) fun i hi _ => ?_
  have hik : i < k := by simpa using hi
  simp only [reachable, devOf, List.getElem_reverse, List.getElem_map, List.getElem_range, List.length_map,
    List.length_range]
  omega

theorem devOf_perm_reachable (P : Port) {k n : Nat} (h : k ≤ n) :
    ((List.range k).map fun j => devOf P j n).Perm (reachable P k n) := by
  cases P with
  | A =>
    rw [← reverse_devOf_eq_reachable h]
    exact (List.reverse_perm _).symm
  | B => simp [devOf, reachable]

theorem mem_reachable_A {k n i : Nat} (h : k ≤ n) : i ∈ reachable .A k n ↔ n - k ≤ i ∧ i < n := by
  simp only [reachable, List.mem_map, List.mem_range]
  constructor
  · rintro ⟨j, hj, rfl⟩
    omega
  · rintro ⟨hlow, hhigh⟩
    exact ⟨i - (n - k), by omega, by omega⟩

/-- Settles O30: the slots map to the reachable devices one to one, and each device back to its slot. -/
theorem slotsCarryTheNearestDevices : Obligations.SlotsCarryTheNearestDevices := by
  unfold Obligations.SlotsCarryTheNearestDevices
  intro P k n hk
  refine ⟨devOf_perm_reachable P hk, fun j hj => slotOf_devOf (by omega), fun i => ?_⟩
  cases P with
  | A => simpa using mem_reachable_A hk
  | B => simp [reachable]

/-! ## Slots of a buffer (spec R162, R175) -/

/-- The parser reads of a slot the six bytes at its offset and the two after them. -/
theorem slot_of_bytes {rx pay : Bytes} {pw : Word} {j : Nat} (hpay : pay.length = 6)
    (h : (rx.drop (slotOffset j)).take 8 = pay ++ wireWord pw) : slotPayload rx j = pay ∧ slotPec rx j = pw := by
  constructor
  · calc slotPayload rx j = ((rx.drop (slotOffset j)).take 8).take 6 := by simp [slotPayload, List.take_take]
      _ = pay := by rw [h, List.take_left' hpay]
  · have hbyte : ∀ i < 2, rx.getD (slotOffset j + (6 + i)) 0 = (wireWord pw).getD i 0 := by
      intro i hi
      calc rx.getD (slotOffset j + (6 + i)) 0 = ((rx.drop (slotOffset j)).take 8).getD (6 + i) 0 := by
            simp [List.getD_eq_getElem?_getD, show 6 + i < 8 by omega]
        _ = (wireWord pw).getD i 0 := by
            rw [h, List.getD_append_right _ _ _ _ (by omega), hpay, Nat.add_sub_cancel_left]
    exact (congrArg₂ (· ++ ·) (hbyte 0 (by decide)) (hbyte 1 (by decide))).trans (hiByte_append_loByte pw)

section WriteFrame

variable {data : Bytes} {n k j : Nat} (c : Params) (cmd : Word) (P : Port) (hd : data.length = 6 * n) (hk : k ≤ n)
  (hj : j < k)

include hd hk hj

theorem slot_buildWriteFrame :
    slotPayload (buildWriteFrame c cmd data P n k) j = payloadAt data (devOf P j n) ∧
      slotPec (buildWriteFrame c cmd data P n k) j = dataPec c (payloadAt data (devOf P j n)) 0#6 :=
  slot_of_bytes (payloadAt_length hd (devOf_lt (by omega))) (buildWriteFrame_slot hd hk hj)

theorem slotPayload_buildWriteFrame :
    slotPayload (buildWriteFrame c cmd data P n k) j = payloadAt data (devOf P j n) :=
  (slot_buildWriteFrame c cmd P hd hk hj).1

theorem slotPec_buildWriteFrame :
    slotPec (buildWriteFrame c cmd data P n k) j = dataPec c (payloadAt data (devOf P j n)) 0#6 :=
  (slot_buildWriteFrame c cmd P hd hk hj).2

end WriteFrame

theorem take_buildWriteFrame (c : Params) (cmd : Word) (data : Bytes) (P : Port) (n k : Nat) :
    (buildWriteFrame c cmd data P n k).take 4 = buildCommandFrame c cmd := by
  rw [buildWriteFrame, List.take_left' (buildCommandFrame_length c cmd)]

/-! ## The builders (spec R165, R190) -/

/-- Settles O22: BUILDCMD checks no operand, and its meaning is the response. -/
theorem buildcmdAnswers : Obligations.BuildcmdAnswers := by
  unfold Obligations.BuildcmdAnswers
  intro cmd s
  rfl

/-- Settles O23: slot `slotOf P i m` of the write frame is the register frame of device `i`. -/
theorem buildwrPlacesEveryDevice : Obligations.BuildwrPlacesEveryDevice := by
  unfold Obligations.BuildwrPlacesEveryDevice
  intro P cmd count data s hone hmax hlen
  have hwf : (Instr.buildwr P cmd count data).wf s.cfg = true := by simp [Instr.wf, countFits, hone, hmax, hlen]
  refine ⟨buildWriteFrame s.cfg cmd data P count.toNat count.toNat, ?_, buildWriteFrame_length hlen le_rfl,
    take_buildWriteFrame .., fun i hi => ?_⟩
  · rw [exec_buildwr, if_pos hwf]
    rfl
  · have hslot : slotOf P i count.toNat < count.toNat := slotOf_lt hi
    have hpay := slotPayload_buildWriteFrame s.cfg cmd P hlen le_rfl hslot
    have hpec := slotPec_buildWriteFrame s.cfg cmd P hlen le_rfl hslot
    rw [devOf_slotOf hi] at hpay hpec
    rw [← slotOf_eq_ite]
    exact ⟨hpay, hpec⟩

/-- Settles O29: the value is the two halves, and up to 8190 devices neither is cut. -/
theorem offsetAnswers : Obligations.OffsetAnswers := by
  unfold Obligations.OffsetAnswers
  intro P index count s hone hmax hindex
  have hwf : (Instr.offset P index count).wf s.cfg = true := by simp [Instr.wf, countFits, hone, hmax, hindex]
  have hslot : slotOf P index.toNat count.toNat < count.toNat := slotOf_lt hindex
  rw [← slotOf_eq_ite]
  generalize hs : slotOf P index.toNat count.toNat = slot at hslot ⊢
  refine ⟨BitVec.ofNat 16 slot ++ BitVec.ofNat 16 (4 + 8 * slot), ?_, ?_, ?_, fun hsmall => ?_⟩
  · rw [exec_offset, if_pos hwf, hs]
    rfl
  · rw [BitVec.extractLsb'_append_eq_of_le (by decide)]
    simp
  · rw [BitVec.extractLsb'_append_eq_of_add_le (by decide)]
    simp
  · rw [BitVec.toNat_append, ← Nat.shiftLeft_add_eq_or_of_lt (BitVec.isLt _), Nat.shiftLeft_eq, BitVec.toNat_ofNat,
      BitVec.toNat_ofNat, Nat.mod_eq_of_lt (by omega), Nat.mod_eq_of_lt (by omega)]

/-! ## The status of a slot (spec R176 to R178) -/

/-- The rule of R178 on a PEC word given as its counter and its CRC. -/
theorem slotStatus_append (c : Params) (pay : Bytes) (rc : BitVec 6) (crc : BitVec 10) (e : Option (BitVec 6)) :
    slotStatus c pay (rc ++ crc) e =
      if dataCrc c pay rc ≠ crc then .chainBreakError
      else if e = none ∨ e = some rc then .success
      else if rc = 0 then .porError
      else .commandCounterError := by
  unfold slotStatus slotCrcOk
  rw [pecCounter_append, pecCrc_append]
  by_cases hcrc : dataCrc c pay rc = crc
  · cases e with
    | none => simp [hcrc]
    | some x => simp [hcrc, eq_comm (a := x) (b := rc)]
  · simp [hcrc]

/-- Settles O25: each clause picks one branch of the rule. -/
theorem slotStatusRule : Obligations.SlotStatusRule := by
  unfold Obligations.SlotStatusRule
  intro c pay rc crc e
  rw [slotStatus_append]
  refine ⟨fun hbad => if_pos hbad, fun hok hmatch => ?_, fun hok hsome hne hzero => ?_, fun hok hsome hne hnz => ?_⟩
  · rw [if_neg (not_not.2 hok), if_pos hmatch]
  · rw [if_neg (not_not.2 hok), if_neg (not_or.2 ⟨hsome, hne⟩), if_pos hzero]
  · rw [if_neg (not_not.2 hok), if_neg (not_or.2 ⟨hsome, hne⟩), if_neg hnz]

/-- A register frame of counter 0, as a write frame carries, passes its CRC check; it is a POR fault wherever another
counter is expected. -/
theorem slotStatus_dataPec_zero (c : Params) (pay : Bytes) (x : BitVec 6) :
    slotStatus c pay (dataPec c pay 0#6) (some x) = if x = 0#6 then .success else .porError := by
  rw [dataPec, slotStatus_append]
  simp

/-! ## The status of a frame (spec R175, R179) -/

section FrameStatus

variable (c : Params) (rx : Bytes) (P : Port) (n : Nat) (exp : Nat → Option (BitVec 6)) {k : Nat}

/-- No slot is worse than its frame. -/
theorem rank_slotResult_le {j : Nat} (hj : j < k) :
    (slotResult c rx P n exp j).rank ≤ (frameStatus c rx P n k exp).rank :=
  (foldl_worse_rank (slotResult c rx P n exp) (List.range k) .success).2 j (List.mem_range.2 hj)

/-- The status of a frame with a slot is that of one of its slots. -/
theorem frameStatus_attained (hk : 0 < k) : ∃ j < k, frameStatus c rx P n k exp = slotResult c rx P n exp j := by
  rcases foldl_worse_mem (slotResult c rx P n exp) (List.range k) .success with hall | ⟨j, hj, hworst⟩
  · exact ⟨0, hk, hall.trans (frameStatus_success.1 hall 0 hk).symm⟩
  · exact ⟨j, List.mem_range.1 hj, hworst⟩

theorem frameStatus_of_forall {st : TxStatus} (hk : 0 < k) (h : ∀ j < k, slotResult c rx P n exp j = st) :
    frameStatus c rx P n k exp = st := by
  obtain ⟨j, hj, hworst⟩ := frameStatus_attained c rx P n exp hk
  rw [hworst, h j hj]

end FrameStatus

/-! ## Payloads in logical device order (spec R61, R175, R191) -/

/-- A frame of the whole chain gives each device the payload of its slot. -/
theorem flat_frameData (rx : Bytes) (P : Port) (n : Nat) :
    (frameData rx P n n).flat n = (List.range n).flatMap fun i => slotPayload rx (slotOf P i n) := by
  refine List.flatMap_congr fun i hi => ?_
  have hi' : i < n := List.mem_range.1 hi
  exact frameData_at hi' (slotOf_lt hi') le_rfl

theorem flatMap_payloadAt (data : Bytes) (m : Nat) : (List.range m).flatMap (payloadAt data) = data.take (6 * m) := by
  induction m with
  | zero => rfl
  | succ m ih =>
    rw [List.range_succ, List.flatMap_append, ih, Nat.mul_succ, List.take_add, List.flatMap_singleton]
    rfl

/-! ## PARSERD (spec R191) -/

/-- PARSERD with legal operands answers the status of the frame, and the payloads of its slots by device if that is
`Success`. -/
theorem exec_parserd_of_legal {P : Port} {count : BitVec 32} {counter : BitVec 8} {bytes : Bytes} {s : State}
    (hone : 1 ≤ count.toNat) (hmax : count.toNat ≤ s.cfg.maxDevices) (hcounter : counter.toNat ≤ 63)
    (hlen : bytes.length = 4 + 8 * count.toNat) :
    exec (.parserd P count counter bytes) s = .next (s.respond (Response.ofStatus
      (frameStatus s.cfg bytes P count.toNat count.toNat fun _ => some (counter.extractLsb' 0 6))
      ((List.range count.toNat).flatMap fun i => slotPayload bytes (slotOf P i count.toNat)))) := by
  have hwf : (Instr.parserd P count counter bytes).wf s.cfg = true := by
    simp [Instr.wf, counterFits, countFits, hone, hmax, hcounter, hlen]
  have hctr : counter.setWidth 6 = counter.extractLsb' 0 6 := BitVec.setWidth_eq_extractLsb' (by decide)
  rw [exec_parserd, if_pos hwf, hctr, ← flat_frameData]
  by_cases hok : frameStatus s.cfg bytes P count.toNat count.toNat (fun _ => some (counter.extractLsb' 0 6)) = .success
  · simp [parseFrame, hok]
  · simp [parseFrame, hok, Response.ofStatus]

/-- Settles O24: the status of a frame is the worst of its slots', and its data is read by device. -/
theorem parserdAnswersTheWorstSlot : Obligations.ParserdAnswersTheWorstSlot := by
  unfold Obligations.ParserdAnswersTheWorstSlot
  intro P count counter bytes s hone hmax hcounter hlen
  have hworst := frameStatus_attained s.cfg bytes P count.toNat (fun _ => some (counter.extractLsb' 0 6)) hone
  refine ⟨_, _, exec_parserd_of_legal hone hmax hcounter hlen, fun j hj => ?_, hworst, fun hbad => if_neg hbad,
    fun hok => ?_⟩
  · exact rank_slotResult_le s.cfg bytes P count.toNat (fun _ => some (counter.extractLsb' 0 6)) hj
  · rw [hok, if_pos rfl]
    simp only [slotOf_eq_ite]
    rfl

/-! ## The round trip (spec R192) -/

/-- Each device's payload is read back from its slot. -/
theorem payloads_buildWriteFrame (c : Params) (cmd : Word) (P : Port) {data : Bytes} {n : Nat}
    (hd : data.length = 6 * n) :
    ((List.range n).flatMap fun i => slotPayload (buildWriteFrame c cmd data P n n) (slotOf P i n)) = data := by
  have hslot : ∀ i ∈ List.range n,
      slotPayload (buildWriteFrame c cmd data P n n) (slotOf P i n) = payloadAt data i := by
    intro i hi
    have hi' : i < n := List.mem_range.1 hi
    rw [slotPayload_buildWriteFrame c cmd P hd le_rfl (slotOf_lt hi'), devOf_slotOf hi']
  rw [List.flatMap_congr hslot, flatMap_payloadAt, List.take_of_length_le hd.le]

/-- Each slot passes its CRC check and carries the counter 0. -/
theorem frameStatus_buildWriteFrame (c : Params) (cmd : Word) (P : Port) {data : Bytes} {n : Nat} (x : BitVec 6)
    (hn : 0 < n) (hd : data.length = 6 * n) :
    frameStatus c (buildWriteFrame c cmd data P n n) P n n (fun _ => some x) =
      if x = 0#6 then .success else .porError := by
  refine frameStatus_of_forall _ _ _ _ _ hn fun j hj => ?_
  rw [slotResult, slotPayload_buildWriteFrame c cmd P hd le_rfl hj, slotPec_buildWriteFrame c cmd P hd le_rfl hj,
    slotStatus_dataPec_zero]

/-- A counter operand is 0 exactly if its six bits are. -/
theorem counter_eq_zero_iff {counter : BitVec 8} (h : counter.toNat ≤ 63) :
    counter.extractLsb' 0 6 = 0#6 ↔ counter = 0 := by
  rw [← BitVec.toNat_inj, ← BitVec.toNat_inj, BitVec.extractLsb'_toNat, Nat.shiftRight_zero,
    Nat.mod_eq_of_lt (by omega)]
  rfl

/-- Settles O27: each slot of the write frame holds its device's payload with a valid CRC and the counter 0. -/
theorem writeFrameRoundTrip : Obligations.WriteFrameRoundTrip := by
  unfold Obligations.WriteFrameRoundTrip
  intro s P cmd count data counter hone hmax hlen hcounter
  rw [exec_parserd_of_legal hone hmax hcounter (buildWriteFrame_length hlen le_rfl),
    payloads_buildWriteFrame s.cfg cmd P hlen, frameStatus_buildWriteFrame s.cfg cmd P _ hone hlen]
  simp only [counter_eq_zero_iff hcounter]
  split <;> rfl

/-! ## The header of a receive buffer (spec R181) -/

section Header

variable {head : Bytes} (body : Bytes) (j : Nat) (hh : head.length = 4)

include hh

theorem slotPayload_header_append : slotPayload (head ++ body) j = (body.drop (8 * j)).take 6 := by
  rw [slotPayload, slotOffset, ← List.drop_drop, List.drop_left' hh]

theorem slotPec_header_append : slotPec (head ++ body) j = body.getD (8 * j + 6) 0 ++ body.getD (8 * j + 7) 0 := by
  have hbyte : ∀ i, (head ++ body).getD (slotOffset j + i) 0 = body.getD (8 * j + i) 0 := by
    intro i
    rw [slotOffset, List.getD_append_right _ _ _ _ (by omega)]
    congr 1
    omega
  exact congrArg₂ (· ++ ·) (hbyte 6) (hbyte 7)

end Header

theorem parseFrame_header_append {h h' : Bytes} (body : Bytes) (hh : h.length = 4) (hh' : h'.length = 4) (c : Params)
    (P : Port) (n k : Nat) (exp : Nat → Option (BitVec 6)) :
    parseFrame c (h ++ body) P n k exp = parseFrame c (h' ++ body) P n k exp := by
  have hdata : frameData (h ++ body) P n k = frameData (h' ++ body) P n k := by
    simp only [frameData, slotPayload_header_append body _ hh, slotPayload_header_append body _ hh']
  have hstatus : frameStatus c (h ++ body) P n k exp = frameStatus c (h' ++ body) P n k exp := by
    simp only [frameStatus, slotResult, slotPayload_header_append body _ hh, slotPayload_header_append body _ hh',
      slotPec_header_append body _ hh, slotPec_header_append body _ hh']
  rw [parseFrame, parseFrame, hdata, hstatus]

theorem frameCrcFails_header_append {h h' : Bytes} (body : Bytes) (hh : h.length = 4) (hh' : h'.length = 4) (c : Params)
    (k : Nat) : frameCrcFails c (h ++ body) k = frameCrcFails c (h' ++ body) k := by
  simp only [frameCrcFails, slotPayload_header_append body _ hh, slotPayload_header_append body _ hh',
    slotPec_header_append body _ hh, slotPec_header_append body _ hh']

/-- Settles O28: every slot begins after the header, and the length check counts the header's bytes only. -/
theorem headerBytesAreIgnored : Obligations.HeaderBytesAreIgnored := by
  unfold Obligations.HeaderBytesAreIgnored
  intro h h' body hh hh'
  refine ⟨parseFrame_header_append body hh hh', frameCrcFails_header_append body hh hh',
    fun s P count counter => ?_⟩
  have hlen : (h ++ body).length = (h' ++ body).length := by rw [List.length_append, List.length_append, hh, hh']
  rw [exec_parserd, exec_parserd, Instr.wf, Instr.wf, hlen]
  simp only [parseFrame_header_append body hh hh']

end Sys2Proof.Machine

/-! PROOFS. The port driver (42_port.md): one exchange, the pulse trains of WAKE and READY, and the chip-select lines along
the events of every step, read off the run that precedes each response (`exec_served`). -/

namespace Sys2Proof.Machine

/-! ## One exchange (spec R203) -/

theorem replyOf_bytes_eq {tx rx : Bytes} (h : rx.length = tx.length) : replyOf tx (.bytes rx) = some rx := if_pos h

theorem replyOf_bytes_ne {tx rx : Bytes} (h : rx.length ≠ tx.length) : replyOf tx (.bytes rx) = none := if_neg h

/-- Settles O31: the state is the one `transceive_queued` gives, and the reply depends on the answer's length. -/
theorem transceiveOpensExchangesAndCloses : Obligations.TransceiveOpensExchangesAndCloses := by
  unfold Obligations.TransceiveOpensExchangesAndCloses
  intro s P tx a rest hanswers
  rw [transceive_queued hanswers]
  refine ⟨rfl, ?_, ?_, ?_⟩
  · rintro rx rfl hlen
    exact replyOf_bytes_eq hlen
  · rintro rx rfl hlen
    exact replyOf_bytes_ne hlen
  · rintro rfl
    rfl

/-! ## Pulse trains (spec R205) -/

/-- An activation is `count + 1` toggles, at least one, so it leaves its port's line deasserted. -/
theorem activate_eq (P : Port) (count d : Nat) (s : State) :
    activate P count d s = { s with
      cs := s.cs.set P .deasserted
      trace := s.trace ++
        (List.replicate (count + 1) [.setCs P .asserted, .setCs P .deasserted, .delayUs d]).flatten } :=
  toggles_eq P d (count + 1) s (Nat.succ_ne_zero count)

theorem exec_wake (P : Port) (s : State) :
    exec (.wake P) s =
      .next ((activate P s.cfg.deviceCount s.cfg.wakeDelayUs s).respond (Response.ofStatus .success [])) := rfl

theorem exec_ready (P : Port) (s : State) :
    exec (.ready P) s =
      .next ((activate P s.cfg.deviceCount s.cfg.readyDelayUs s).respond (Response.ofStatus .success [])) := rfl

/-- Settles O32: both requests are one activation and a `Success` response; only the delay differs. -/
theorem wakeAndReadyPulses : Obligations.WakeAndReadyPulses := by
  unfold Obligations.WakeAndReadyPulses
  intro P s after
  constructor
  · rw [exec_wake, activate_eq]
    rfl
  · rw [exec_ready, activate_eq]
    rfl

/-! ## The chip-select lines (spec R202) -/

/-- From `s` to `t`, a state with both lines idle again, the events obey the chip-select discipline. -/
def KeepsLines (s t : State) : Prop :=
  t.cs = CsLines.idle ∧ ∃ evs, t.trace = s.trace ++ evs ∧ csDisciplined CsLines.idle evs = true

theorem csDisciplined_response_idle (r : Response) : csDisciplined CsLines.idle [.response r] = true := by
  simp [csDisciplined]

/-- A run from idle lines leaves them idle, so the response after it is where the discipline allows one. -/
theorem Ran.respond_keepsLines {s u : State} {evs : List Event} (hran : Ran s u evs) (hcs : s.cs = CsLines.idle)
    (r : Response) : KeepsLines s (u.respond r) := by
  obtain ⟨hidle, hevs, hlines⟩ := hran.cs hcs
  refine ⟨hidle, evs ++ [.response r], ?_, ?_⟩
  · rw [respond_trace, hran.trace, List.append_assoc]
  · exact csDisciplined_append _ _ _ _ hlines.symm hevs (csDisciplined_response_idle r)

/-- Whatever the instruction, the lines are kept: it is a run and a response. -/
theorem exec_keepsLines {i : Instr} {s t : State} (hcs : s.cs = CsLines.idle) (hexec : exec i s = .next t) :
    KeepsLines s t := by
  obtain ⟨u, evs, r, heq, hran, -⟩ := exec_served i s
  obtain rfl : t = u.respond r := by simpa [hexec] using heq
  exact hran.respond_keepsLines hcs r

/-- Settles O13: a step waits with no event, refuses with a response alone, or executes an instruction. -/
theorem chipSelectDiscipline : Obligations.ChipSelectDiscipline := by
  unfold Obligations.ChipSelectDiscipline
  intro s t hcs hstep
  rcases step_next hstep with ⟨-, rfl⟩ | ⟨r, rest, -, ⟨e, -, rfl⟩ | ⟨i, -, hexec⟩⟩
  · exact ⟨hcs, [], (List.append_nil _).symm, rfl⟩
  · exact (Ran.refl (s.accept r rest)).respond_keepsLines hcs _
  · exact exec_keepsLines (s := s.accept r rest) hcs hexec

end Sys2Proof.Machine

/-! PROOFS. The topology probe (43_topology.md): the two ways a PROBE can end, read off `runProbe_ran` once
(`exec_probe_ends`), and its outcome on scripted answers, from `runProbe_scripted`. -/

namespace Sys2Proof.Machine

/-! ## How a PROBE ends (spec R226, R228, R231) -/

/-- `x(c)`: the exchanges of a port's scan that finds `found` devices (spec R230). -/
def scanExchanges (c : Params) (found : Nat) : Nat := if found < c.deviceCount then found + 1 else c.deviceCount

/-- Every way a PROBE can end on an instance `c`, where the events `evs` were emitted: its response and the ChainInfo
registers it leaves. -/
inductive ProbeEnds (c : Params) (info : ChainInfo) (evs : List Event) : Response → ChainInfo → Prop where
  /-- A failed exchange aborts the probe, and nothing is committed (spec R226). -/
  | aborted (hfail : EndsInFailure evs) : ProbeEnds c info evs (Response.ofStatus .spiError []) info
  /-- Two counts were found, committed and reported (spec R228, R231). -/
  | found (a b : Nat) (pf : TxStatus) (hpf : pf ≠ .spiError) (hpass : AllPassed evs)
      (hcount : xferCount evs = scanExchanges c a + scanExchanges c b) :
      ProbeEnds c info evs (probeResponse (classify a b c.deviceCount) a b pf)
        (info.commit (classify a b c.deviceCount) a b)

theorem exec_probe (s : State) : exec .probe s = .next (probeOutcome (runProbe (s.enter .reprobe))) := rfl

/-- PROBE is a run that writes no more of the control state than `phase` and the probe's working state, and then a
response, in one of the ways of `ProbeEnds`. -/
theorem exec_probe_ends (s : State) :
    ∃ u evs r, exec .probe s = .next (u.respond r) ∧ Ran s u evs ∧ SameButProbe (s.enter .reprobe) u ∧
      ProbeEnds s.cfg s.chain evs r u.chain := by
  obtain ⟨evs, hran, ⟨hfailed, hpassed⟩, -, hchain, hsame, hfound⟩ := runProbe_ran (s.enter .reprobe)
  have hphase : Ran s (s.enter .reprobe) [] := Ran.ofWrite rfl rfl rfl rfl rfl rfl rfl
  have hall := hphase.trans hran
  rw [exec_probe]
  generalize runProbe (s.enter .reprobe) = p at *
  obtain ⟨result, u⟩ := p
  simp only [enter_chain, enter_cfg, List.nil_append] at hchain hfound hall
  cases result with
  | spiError =>
    refine ⟨u, evs, _, rfl, hall, hsame, ?_⟩
    rw [hchain]
    exact .aborted (hfailed rfl)
  | found cs a b pf =>
    obtain ⟨rfl, -, -, hpf, hcount, -⟩ := hfound cs a b pf rfl
    have hcommit : Ran u (u.commit (classify a b s.cfg.deviceCount) a b) [] := Ran.ofWrite rfl rfl rfl rfl rfl rfl rfl
    have hdone := hall.trans hcommit
    rw [List.append_nil] at hdone
    refine ⟨u.commit (classify a b s.cfg.deviceCount) a b, evs, _, rfl, hdone, hsame, ?_⟩
    rw [State.commit, setChain_chain, hchain]
    exact .found a b pf hpf (hpassed nofun) hcount

/-- An answered PROBE ended in one of the ways of `ProbeEnds`, with the events and the response of its answer. -/
theorem probe_answered {s t : State} {evs : List Event} {r : Response} (h : exec .probe s = .next t)
    (ha : Answered s t evs r) : ProbeEnds s.cfg s.chain evs r t.chain := by
  obtain ⟨u, evs', r', heq, hran, -, hends⟩ := exec_probe_ends s
  obtain rfl : t = u.respond r' := by simpa [h] using heq
  obtain ⟨rfl, rfl⟩ := Answered.unique hran ha
  exact hends

theorem ProbeEnds.ctr_eq {c : Params} {info info' : ChainInfo} {evs : List Event} {r : Response}
    (h : ProbeEnds c info evs r info') : info'.ctr = info.ctr := by
  cases h <;> rfl

theorem ProbeEnds.currentPort_eq {c : Params} {info info' : ChainInfo} {evs : List Event} {r : Response}
    (h : ProbeEnds c info evs r info') : info'.currentPort = info.currentPort := by
  cases h <;> rfl

/-- Settles O35: a probe that found counts has no failed exchange, so this one was aborted. -/
theorem abortedProbeCommitsNothing : Obligations.AbortedProbeCommitsNothing := by
  unfold Obligations.AbortedProbeCommitsNothing
  rintro s t evs r hexec ha ⟨e, he, hfailed⟩
  have hends := probe_answered hexec ha
  generalize t.chain = info at hends ⊢
  cases hends with
  | aborted => exact ⟨rfl, rfl⟩
  | found a b pf hpf hpass => exact absurd (hpass e he) (by simp [hfailed])

/-- Settles O36: the run leaves the configuration, the queue and the latched operands, and both ends of a PROBE leave
the counters and the port. -/
theorem probeFrame : Obligations.ProbeFrame := by
  unfold Obligations.ProbeFrame
  intro s t hexec
  obtain ⟨u, evs, r, heq, hran, hsame, hends⟩ := exec_probe_ends s
  obtain rfl : t = u.respond r := by simpa [hexec] using heq
  have hiter : u.ctl.iter = s.ctl.iter := by rw [hsame]; rfl
  have hsnap : u.ctl.expSnap = s.ctl.expSnap := by rw [hsame]; rfl
  exact ⟨hends.ctr_eq, hends.currentPort_eq, hran.cfg, hran.host, hran.req, hiter, hsnap⟩

/-- Settles O37: the counts committed are those found, and an aborted probe answers `SpiError`. -/
theorem probeExchangeCount : Obligations.ProbeExchangeCount := by
  unfold Obligations.ProbeExchangeCount
  intro s t evs r hexec ha hstatus
  have hends := probe_answered hexec ha
  generalize t.chain = info at hends ⊢
  cases hends with
  | aborted => exact absurd rfl hstatus
  | found a b pf hpf hpass hcount => exact hcount

/-! ## A PROBE on scripted answers (spec R222, R225) -/

/-- Settles O34: the scripted probe finds `(a, b)`, and what is left is the commit and the response. -/
theorem probeFindsTheReachableDevices : Obligations.ProbeFindsTheReachableDevices := by
  unfold Obligations.ProbeFindsTheReachableDevices
  intro s a b sa sb rest ha hb hans n exp pf
  obtain ⟨u, hprobe, htrace, hanswers, hcfg, hhost, hchain, -⟩ :=
    runProbe_scripted (s.enter .reprobe) a b sa sb rest ha hb hans
  rw [exec_probe, hprobe]
  refine ⟨_, rfl, ?_, ?_, hanswers, hcfg, hhost⟩
  · show u.chain.commit (classify a b n) a b = _
    rw [hchain, enter_chain, ChainInfo.commit, ite_not]
  · show u.trace ++ [_] = _
    rw [htrace]
    simp only [scanEvents, Nat.add_comm 1]
    rfl

/-! ## Classification (spec R227) -/

/-- Settles O33: one lemma per class. -/
theorem classificationRule : Obligations.ClassificationRule := by
  unfold Obligations.ClassificationRule
  exact fun _ _ _ => ⟨classify_complete, classify_singleBreak, classify_multipleBreak⟩

end Sys2Proof.Machine

/-! PROOFS. How a request ends, whatever the transport answers (44_transactor.md R263, R274, R275; 60_exceptions.md
R302, R308): every instruction is a run and a response, `SpiError` exactly where the run's last exchange failed
(`exec_endsOnFailure`). For COMMAND, WRITE and READ the registers are read off the ends of a branch of the outer loop
(`BranchEnds`) and of an operation (`OperationEnds`). -/

namespace Sys2Proof.Machine

/-! ## Status codes (spec R103) -/

theorem code_eq_spiError {st : TxStatus} : st.code = 2#3 ↔ st = .spiError := by cases st <;> decide

theorem code_eq_success {st : TxStatus} : st.code = 0#3 ↔ st = .success := by cases st <;> decide

/-! ## The first failed exchange (spec R275) -/

theorem EndsInFailure.exists_failed {evs : List Event} (h : EndsInFailure evs) :
    ∃ e ∈ evs, e.isFailedXfer = true := by
  obtain ⟨pre, tx, a, P, rfl, hreply, -⟩ := h
  exact ⟨.xfer tx a, by simp, by simp [Event.isFailedXfer, hreply]⟩

/-- A run that ends in failure has one failed exchange, and nothing but the deassertion follows it. -/
theorem EndsInFailure.after_failed {evs pre post : List Event} {e : Event} (h : EndsInFailure evs)
    (hevs : evs = pre ++ e :: post) (he : e.isFailedXfer = true) : ∃ P, post = [.setCs P .deasserted] := by
  obtain ⟨passed, tx, a, P, rfl, -, hpassed⟩ := h
  have hnot : e ∉ passed := fun hmem => by simp [hpassed e hmem] at he
  rcases List.append_eq_append_iff.1 hevs with ⟨mid, hpre, hmid⟩ | ⟨mid, hpassed', hmid⟩
  · cases mid with
    | nil =>
      obtain ⟨-, rfl⟩ := List.cons.inj hmid
      exact ⟨P, rfl⟩
    | cons x mid =>
      -- the event after the failed exchange is the deassertion, and it is no exchange
      cases mid with
      | nil =>
        obtain ⟨-, hlast⟩ := List.cons.inj hmid
        obtain ⟨rfl, -⟩ := List.cons.inj hlast
        simp [Event.isFailedXfer] at he
      | cons y mid => simp at hmid
  · cases mid with
    | nil =>
      obtain ⟨-, rfl⟩ := List.cons.inj hmid
      exact ⟨P, rfl⟩
    | cons x mid =>
      obtain ⟨rfl, -⟩ := List.cons.inj hmid
      exact absurd (by simp [hpassed']) hnot

/-- A run ended with `SpiError` exactly if one of its exchanges failed. -/
theorem EndedAs.iff_exists_failed {spi : Prop} {evs : List Event} (h : EndedAs spi evs) :
    spi ↔ ∃ e ∈ evs, e.isFailedXfer = true := by
  obtain ⟨hfailed, hpassed⟩ := h
  refine ⟨fun hspi => (hfailed hspi).exists_failed, ?_⟩
  rintro ⟨e, hmem, he⟩
  by_contra hspi
  simp [hpassed hspi e hmem] at he

/-- The outcome is a response after a run from `s`, and the response is `SpiError` exactly if the run ended in a failed
exchange. -/
def EndsOnFailure (s : State) (o : Host.Outcome State Fault Refusal) : Prop :=
  ∃ u evs r, o = .next (u.respond r) ∧ Ran s u evs ∧ EndedAs (r.status = 2#3) evs

theorem endsOnFailure_ofStatus {s u : State} {evs : List Event} {st : TxStatus} (hran : Ran s u evs)
    (hend : EndedAs (st = .spiError) evs) (data : Bytes) :
    EndsOnFailure s (.next (u.respond (Response.ofStatus st data))) :=
  ⟨u, evs, _, rfl, hran, by rwa [← code_eq_spiError] at hend⟩

/-- A response with no exchange before it. -/
theorem endsOnFailure_respond (s : State) {r : Response} (hr : r.status ≠ 2#3) :
    EndsOnFailure s (.next (s.respond r)) :=
  ⟨s, [], r, rfl, Ran.refl s, fun h => absurd h hr, fun _ => allPassed_nil⟩

theorem endsOnFailure_success (s : State) {r : Response} (hr : r.status = TxStatus.success.code) :
    EndsOnFailure s (.next (s.respond r)) :=
  endsOnFailure_respond s (by rw [hr]; decide)

theorem endsOnFailure_activate (s : State) (P : Port) (count d : Nat) :
    EndsOnFailure s (.next ((activate P count d s).respond (Response.ofStatus .success []))) := by
  obtain ⟨evs, hran, -, hpass, -, -⟩ := toggles_ran P d (count + 1) s
  exact endsOnFailure_ofStatus (st := .success) hran ⟨nofun, fun _ => hpass⟩ []

theorem endsOnFailure_execInit (s : State) : EndsOnFailure s (execInit s) :=
  endsOnFailure_ofStatus (s := s) (u := s.setChain (ChainInfo.initial s.cfg)) (st := .success)
    (Ran.ofWrite rfl rfl rfl rfl rfl rfl rfl) ⟨nofun, fun _ => allPassed_nil⟩ []

theorem endsOnFailure_exec_probe (s : State) : EndsOnFailure s (exec .probe s) := by
  obtain ⟨u, evs, r, heq, hran, -, hends⟩ := exec_probe_ends s
  refine ⟨u, evs, r, heq, hran, ?_⟩
  generalize u.chain = info at hends
  cases hends with
  | aborted hfail => exact ⟨fun _ => hfail, fun h => absurd rfl h⟩
  | found a b pf hpf hpass hcount =>
    exact ⟨fun h => absurd (code_eq_spiError.1 h) hpf, fun _ => hpass⟩

theorem endsOnFailure_serve (op : Operation) (s : State) : EndsOnFailure s (.next (serve op s)) := by
  obtain ⟨evs, hran, hend, -, -⟩ := operate_ran op s
  exact endsOnFailure_ofStatus hran hend _

theorem endsOnFailure_execCtrreset (cls : DevClass) (s : State) : EndsOnFailure s (execCtrreset cls s) := by
  obtain ⟨evs, hran, hend, -, -, -, -⟩ := counterReset_ran cls .success s nofun
  exact endsOnFailure_ofStatus hran hend []

/-- Every instruction answers `SpiError` exactly if its last exchange failed (spec R302, R308). -/
theorem exec_endsOnFailure (i : Instr) (s : State) : EndsOnFailure s (exec i s) := by
  by_cases hwf : i.wf s.cfg = true
  case neg =>
    rw [exec_of_illFormed (by simpa using hwf)]
    exact endsOnFailure_respond s (by decide)
  case pos =>
    cases i with
    | status | crc15 | buildcmd => exact endsOnFailure_success s rfl
    | command cls cmd | read cls cmd => exact endsOnFailure_serve _ s
    | write cls cmd data =>
      rw [exec_write, if_pos hwf]
      exact endsOnFailure_serve _ s
    | wake port | ready port => exact endsOnFailure_activate s port _ _
    | init => exact endsOnFailure_execInit s
    | probe => exact endsOnFailure_exec_probe s
    | crc10 bytes counter =>
      rw [exec_crc10, if_pos hwf]
      exact endsOnFailure_success s rfl
    | buildwr port cmd count data =>
      rw [exec_buildwr, if_pos hwf]
      exact endsOnFailure_success s rfl
    | parserd port count counter bytes =>
      rw [exec_parserd, if_pos hwf]
      exact endsOnFailure_respond s fun h => frameStatus_ne_spi _ _ _ _ _ _ (code_eq_spiError.1 h)
    | offset port index count =>
      rw [exec_offset, if_pos hwf]
      exact endsOnFailure_success s rfl
    | ctrreset cls => exact endsOnFailure_execCtrreset cls s

/-- Settles O14: the events of an answer are those of its run, and a failed one among them is the run's last
exchange. -/
theorem failedExchangeEndsTheRequest : Obligations.FailedExchangeEndsTheRequest := by
  unfold Obligations.FailedExchangeEndsTheRequest
  intro s t i evs r hexec ha
  obtain ⟨u, evs', r', heq, hran, hend⟩ := exec_endsOnFailure i s
  obtain rfl : t = u.respond r' := by simpa [hexec] using heq
  obtain ⟨rfl, rfl⟩ := Answered.unique hran ha
  have hiff := hend.iff_exists_failed
  refine ⟨hiff, fun pre post e hevs he => ?_⟩
  exact (hend.1 (hiff.2 ⟨e, by simp [hevs], he⟩)).after_failed hevs he

/-! ## COMMAND, WRITE and READ (spec R267 to R269) -/

theorem operationOf_of_eq {i : Instr} {cls : DevClass} {cmd : Word} {data : Bytes}
    (h : i = .command cls cmd ∨ i = .write cls cmd data ∨ i = .read cls cmd) :
    ∃ op, operationOf i = some op ∧ op.cls = cls := by
  rcases h with rfl | rfl | rfl <;> exact ⟨_, rfl, rfl⟩

/-- A served operation is answered with the status its outer loop ended in. -/
theorem serve_answered {op : Operation} {s : State} {evs : List Event} {r : Response}
    (ha : Answered s (serve op s) evs r) :
    ∃ st rd, r = Response.ofStatus st rd ∧ xferCount evs ≤ 2 * (2 + 2 * s.cfg.deviceCount) + 2 ∧
      OperationEnds s.cfg op s.chain evs st rd (serve op s).chain := by
  obtain ⟨evs', hran, -, hcount, hends⟩ := operate_ran op s
  obtain ⟨rfl, rfl⟩ := Answered.unique hran ha
  exact ⟨_, _, rfl, hcount, hends⟩

theorem exec_operation_of_wellFormed {i : Instr} {op : Operation} {s : State} (hop : operationOf i = some op)
    (hwf : i.wf s.cfg = true) : exec i s = .next (serve op s) := by
  cases i with
  | command cls cmd | read cls cmd => obtain rfl := Option.some.inj hop; rfl
  | write cls cmd data => obtain rfl := Option.some.inj hop; exact if_pos hwf
  | _ => cases hop

/-- A request that succeeds is well formed (spec R99, R306). -/
theorem wellFormed_of_success {i : Instr} {s t : State} {evs : List Event} {r : Response} (hexec : exec i s = .next t)
    (ha : Answered s t evs r) (hr : r.status = 0#3) : i.wf s.cfg = true := by
  by_contra hwf
  obtain rfl : t = s.refuse := by simpa [hexec] using exec_of_illFormed (i := i) (s := s) (by simpa using hwf)
  rw [Answered.response_eq ha] at hr
  exact absurd hr (by decide)

/-- Settles O55: the bound of one operation, none where the request is refused. -/
theorem exchangesAreBounded : Obligations.ExchangesAreBounded := by
  unfold Obligations.ExchangesAreBounded
  rintro i s t evs r ⟨cls, cmd, data, hi⟩ hexec ha
  obtain ⟨op, hop, -⟩ := operationOf_of_eq hi
  rcases exec_operation hop s with hserve | hrefuse
  · obtain rfl : t = serve op s := by simpa [hexec] using hserve
    obtain ⟨st, rd, -, hcount, -⟩ := serve_answered ha
    omega
  · obtain rfl : t = s.refuse := by simpa [hexec] using hrefuse
    obtain ⟨rfl, -⟩ := Answered.unique (Ran.refl s) ha
    exact Nat.zero_le _

/-! ## The ends of a branch, by their verdict (spec R258, R260 to R264) -/

section Ends

variable {c : Params} {it : Iter} {op : Operation} {info info' : ChainInfo} {evs : List Event} {st : TxStatus}
  {rd : Bytes} {v : Verdict}

/-- A re-probe never ends in `Success`. -/
theorem ReprobeEnds.ne_success (h : ReprobeEnds c it info evs (.done st rd) info') : st ≠ .success := by
  cases h with
  | aborted => nofun
  | fault a b pf _ hp hpf hst =>
    rcases hst with rfl | rfl
    · rintro rfl
      exact absurd hpf (by decide)
    · nofun
  | broken a b hp h => nofun

/-- A retry follows a commit of another chain status than `MultipleBreak`, which zeroes the tally where the status
changes (spec R228, R264). -/
theorem ReprobeEnds.of_retry (h : ReprobeEnds c it info evs .retry info') :
    info'.status ≠ .multipleBreak ∧ info'.ctr = info.ctr ∧ (info'.status ≠ info.status → info'.tally = 0) := by
  cases h with
  | retry a b hp hit hcs => exact ⟨hcs, rfl, fun hne => if_pos hne⟩

theorem BranchEnds.of_retry (h : BranchEnds c it op info evs .retry info') :
    info'.status ≠ .multipleBreak ∧ info'.ctr = info.ctr ∧ (info'.status ≠ info.status → info'.tally = 0) := by
  cases h with
  | reprobed t _ _ ht hop hreprobe => exact hreprobe.of_retry

/-- The ways a branch can succeed: over the complete chain, below the tally limit, or at it (spec R258, R262). -/
theorem BranchEnds.of_success (h : BranchEnds c it op info evs (.done .success rd) info') :
    info'.ctr = incCounters op.cls info.ctr ∧ info.status ≠ .multipleBreak ∧
      (info'.status = info.status ∨ info.tally + 1 = c.dualPortLimit) := by
  cases h with
  | full data hs => exact ⟨rfl, by simp [hs], .inl rfl⟩
  | fault r _ hop hr hst =>
    rcases hst with rfl | hst
    · exact absurd hr (by decide)
    · cases hst
  | reprobed t _ _ ht hop hreprobe => exact absurd rfl hreprobe.ne_success
  | counted data hs ht => exact ⟨rfl, by simp [hs], .inl rfl⟩
  | limitFault a b pf _ hs ht hp hpf hst =>
    rcases hst with rfl | hst
    · exact absurd hpf (by decide)
    · cases hst
  | limitPassed a b data hs ht hp => exact ⟨rfl, by simp [hs], .inr ht⟩

/-! ### The counters of a failure (spec R253, R261, R262) -/

/-- What a failed operation of class `cls` may leave of the counter file: as it was, counted once, or reset. -/
def FailedCounters (cls : DevClass) (ctr ctr' : Counters) : Prop :=
  ctr' = ctr ∨ ctr' = incCounters cls ctr ∨ ∃ reset, ctr' = zeroCounters reset ctr

theorem zeroCounters_shared (ctr ctr' : Counters) : zeroCounters .shared ctr = zeroCounters .shared ctr' := rfl

theorem ReprobeEnds.failedCounters (cls : DevClass) (h : ReprobeEnds c it info evs v info') :
    FailedCounters cls info.ctr info'.ctr := by
  cases h with
  | fault a b pf _ hp hpf hst => exact .inr (.inr ⟨.shared, rfl⟩)
  | _ => exact .inl rfl

theorem BranchEnds.failedCounters (h : BranchEnds c it op info evs v info') :
    FailedCounters op.cls info.ctr info'.ctr := by
  cases h with
  | spi => exact .inl rfl
  | fault r _ hop hr hst => exact .inr (.inr ⟨op.cls, rfl⟩)
  | reprobed t _ _ ht hop hreprobe => exact hreprobe.failedCounters op.cls
  | limitFault a b pf _ hs ht hp hpf hst => exact .inr (.inr ⟨.shared, zeroCounters_shared _ _⟩)
  | _ => exact .inr (.inl rfl)

/-- Counter by counter: as it was, 0, or, if the class covers it, incremented once. -/
theorem FailedCounters.get {cls : DevClass} {ctr ctr' : Counters} (h : FailedCounters cls ctr ctr') (k : CtrClass) :
    ctr'.get k = ctr.get k ∨ ctr'.get k = 0 ∨ (k ∈ covered cls ∧ ctr'.get k = inc (ctr.get k)) := by
  rcases h with rfl | rfl | ⟨reset, rfl⟩
  · exact .inl rfl
  · by_cases hk : k ∈ covered cls
    · exact .inr (.inr ⟨hk, by simp [hk]⟩)
    · exact .inl (by simp [hk])
  · by_cases hk : k ∈ covered reset
    · exact .inr (.inl (by simp [hk]))
    · exact .inl (by simp [hk])

/-! ### The tally of a failure (spec R41, R261; log entry 19) -/

theorem ReprobeEnds.tally_eq_zero (h : ReprobeEnds c it info evs v info') (ht : info.tally = 0) : info'.tally = 0 := by
  cases h with
  | aborted => exact ht
  | _ => simp [ChainInfo.commit, ht]

/-- A branch that starts in `SingleBreak`, or with the tally 0, and does not succeed leaves the tally 0. -/
theorem BranchEnds.tally_eq_zero (h : BranchEnds c it op info evs v info')
    (hstart : info.status = .singleBreak ∨ info.tally = 0) (hv : ∀ data, v ≠ .done .success data) :
    info'.tally = 0 := by
  have hite : (if info.status = .complete then info.tally else 0) = 0 := by
    rcases hstart with hs | ht
    · simp [hs]
    · simp [ht]
  cases h with
  | spi => exact hite
  | full data hs => exact absurd rfl (hv data)
  | fault r _ hop hr hst => exact hite
  | reprobed t _ _ ht hop hreprobe =>
    refine hreprobe.tally_eq_zero ?_
    obtain ⟨hkept, hsingle⟩ := ht
    rcases hstart with hs | h0
    · exact hsingle hs
    · rcases hkept with rfl | rfl
      · exact h0
      · rfl
  | counted data hs ht => exact absurd rfl (hv data)
  | limitAborted hs ht => rfl
  | limitFault a b pf _ hs ht hp hpf hst => rfl
  | limitPassed a b data hs ht hp => exact absurd rfl (hv data)

/-! ## The ends of an operation (spec R257) -/

theorem OperationEnds.ctr_of_success (h : OperationEnds c op info evs .success rd info') :
    info'.ctr = incCounters op.cls info.ctr := by
  cases h with
  | once hfirst =>
    obtain ⟨hctr, -, -⟩ := hfirst.of_success
    exact hctr
  | twice mid pre post hevs hfirst hsecond =>
    obtain ⟨-, hkept, -⟩ := hfirst.of_retry
    obtain ⟨hctr, -, -⟩ := hsecond.of_success
    rw [hctr, hkept]

theorem OperationEnds.failedCounters (h : OperationEnds c op info evs st rd info') :
    FailedCounters op.cls info.ctr info'.ctr := by
  cases h with
  | once hfirst => exact hfirst.failedCounters
  | twice mid pre post hevs hfirst hsecond =>
    obtain ⟨-, hkept, -⟩ := hfirst.of_retry
    rw [← hkept]
    exact hsecond.failedCounters

theorem OperationEnds.tally_eq_zero (h : OperationEnds c op info evs st rd info') (hs : info.status = .singleBreak)
    (hst : st ≠ .success) : info'.tally = 0 := by
  have hv : ∀ data, Verdict.done st rd ≠ .done .success data := fun data heq => hst (Verdict.done.inj heq).1
  cases h with
  | once hfirst => exact hfirst.tally_eq_zero (.inl hs) hv
  | twice mid pre post hevs hfirst hsecond =>
    exact hsecond.tally_eq_zero (.inr (hfirst.tally_eq_zero (.inl hs) nofun)) hv

/-- From `MultipleBreak` only a retry can succeed. The retry's re-probe changed the status and so zeroed the tally, and
the tally limit, above 1, is not reached by the one success. -/
theorem OperationEnds.status_ne_multipleBreak (h : OperationEnds c op info evs .success rd info')
    (hs : info.status = .multipleBreak) (hlimit : 1 < c.dualPortLimit) : info'.status ≠ .multipleBreak := by
  cases h with
  | once hfirst =>
    obtain ⟨-, hne, -⟩ := hfirst.of_success
    exact absurd hs hne
  | twice mid pre post hevs hfirst hsecond =>
    obtain ⟨hmid, -, htally⟩ := hfirst.of_retry
    have h0 : mid.tally = 0 := htally (by rwa [hs])
    obtain ⟨-, -, hkept | hreached⟩ := hsecond.of_success
    · rwa [hkept]
    · omega

end Ends

/-- Settles O54: the outer loop ended in `Success`, so it was retried on a chain that a re-probe found healed. -/
theorem multipleBreakSucceedsOnlyHealed : Obligations.MultipleBreakSucceedsOnlyHealed := by
  unfold Obligations.MultipleBreakSucceedsOnlyHealed
  rintro i s t evs r ⟨cls, cmd, data, hi⟩ hs hlimit hexec ha hr
  obtain ⟨op, hop, -⟩ := operationOf_of_eq hi
  have hserve := exec_operation_of_wellFormed hop (wellFormed_of_success hexec ha hr)
  obtain rfl : t = serve op s := by simpa [hexec] using hserve
  obtain ⟨st, rd, rfl, -, hends⟩ := serve_answered ha
  obtain rfl := code_eq_success.1 hr
  exact hends.status_ne_multipleBreak hs hlimit

/-- Settles O58: each clause is read off the ends of an operation. -/
theorem countersAfterAnOperation : Obligations.CountersAfterAnOperation := by
  unfold Obligations.CountersAfterAnOperation
  rintro i cls s t evs r hwf ⟨cmd, data, hi⟩ hexec ha
  obtain ⟨op, hop, rfl⟩ := operationOf_of_eq hi
  obtain rfl : t = serve op s := by simpa [hexec] using exec_operation_of_wellFormed hop hwf
  obtain ⟨st, rd, rfl, -, hends⟩ := serve_answered ha
  refine ⟨fun hr k => ?_, fun _ k => hends.failedCounters.get k, fun hs hr => ?_⟩
  · obtain rfl := code_eq_success.1 hr
    rw [hends.ctr_of_success, incCounters_get]
  · exact hends.tally_eq_zero hs fun hst => hr (code_eq_success.2 hst)

end Sys2Proof.Machine

/-! PROOFS. The step, the counters, and the requests CTRRESET, STATUS and INIT (44_transactor.md R251 to R255, R270 to
R272). A counter reset whose broadcast is answered is one state (`counterReset_answered`); whatever is answered, it
writes the covered counters and no other register (`counterReset_ran`). -/

namespace Sys2Proof.Machine

/-! ## The step (spec R75, R255) -/

/-- Settles O7: an idle block with a request that decodes goes straight to its meaning. -/
theorem stepRunsTheDecodedInstruction : Obligations.StepRunsTheDecodedInstruction := by
  unfold Obligations.StepRunsTheDecodedInstruction
  intro s r rest i hbusy hhost hdec
  simp only [step, State.nextRequest, hbusy, hhost, hdec, Bool.false_eq_true, if_false]
  rfl

/-! ## The counter increment (spec R251) -/

theorem inc_toNat {c : BitVec 6} (h : c ≠ 63#6) : (inc c).toNat = c.toNat + 1 := by
  have hlt : c.toNat ≠ 63 := fun heq => h (BitVec.eq_of_toNat_eq heq)
  rw [inc, if_neg h, BitVec.toNat_add]
  exact Nat.mod_eq_of_lt (by have := c.isLt; simp; omega)

theorem inc_ne_zero (c : BitVec 6) : inc c ≠ 0#6 := by
  by_cases h : c = 63#6
  · simp [inc, h]
  · intro hzero
    have := inc_toNat h
    simp [hzero] at this

/-- The counters run through 1 to 63 in a cycle. -/
theorem iterate_inc_toNat (k : Nat) : (inc^[k] 1#6).toNat = k % 63 + 1 := by
  induction k with
  | zero => rfl
  | succ k ih =>
    rw [Function.iterate_succ_apply']
    by_cases h : inc^[k] 1#6 = 63#6
    · rw [h] at ih ⊢
      have hwrap : (inc 63#6).toNat = 1 := rfl
      have hlast : (63#6).toNat = 63 := rfl
      omega
    · have hne : (inc^[k] 1#6).toNat ≠ 63 := fun heq => h (BitVec.eq_of_toNat_eq heq)
      rw [inc_toNat h]
      omega

/-- Settles O38: the values of the iterates give the cycle. -/
theorem counterIncrement : Obligations.CounterIncrement := by
  refine ⟨fun c => ⟨inc_ne_zero c, rfl, inc_toNat⟩, BitVec.eq_of_toNat_eq (iterate_inc_toNat 63), ?_⟩
  intro k hzero
  have := iterate_inc_toNat k
  simp [hzero] at this

/-! ## The covered counters (spec R252, R253) -/

theorem incCounters_eq (cls : DevClass) (ctr : Counters) :
    incCounters cls ctr =
      { cell := if cls = .pack then ctr.cell else inc ctr.cell
        pack := if cls = .cell then ctr.pack else inc ctr.pack } := by
  cases cls <;> rfl

theorem zeroCounters_eq (cls : DevClass) (ctr : Counters) :
    zeroCounters cls ctr =
      { cell := if cls = .pack then ctr.cell else 0
        pack := if cls = .cell then ctr.pack else 0 } := by
  cases cls <;> rfl

/-! ## The counter reset (spec R253, R254) -/

/-- Port A, then port B, each only if it reaches a device. -/
def reachingPorts (info : ChainInfo) : List Port :=
  (if 0 < info.availA then [Port.A] else []) ++ (if 0 < info.availB then [Port.B] else [])

/-- The ports of a broadcast, in the order of spec R254. -/
theorem rstccPorts_eq (info : ChainInfo) :
    rstccPorts info = if info.status = .complete then [info.currentPort] else reachingPorts info := by
  unfold rstccPorts reachingPorts
  simp only [List.filter_cons, List.filter_nil, ChainInfo.avail]
  by_cases hA : 0 < info.availA <;> by_cases hB : 0 < info.availB <;> simp [hA, hB]

/-- A broadcast that every port answers leaves those lines deasserted, and writes no register. -/
theorem broadcast_eq {ports : List Port} {replies : List Bytes} {rest : List Answer} {s : State}
    (hl : replies.length = ports.length) (h4 : ∀ rx ∈ replies, rx.length = 4)
    (ha : s.answers = replies.map Answer.bytes ++ rest) :
    broadcast ports s = (true, { s with
      cs := ports.foldl (fun lines P => lines.set P .deasserted) s.cs
      answers := rest
      trace := s.trace ++ broadcastEvents s.cfg ports replies }) := by
  induction ports generalizing replies s with
  | nil =>
    obtain rfl := List.length_eq_zero_iff.1 hl
    simp only [List.map_nil, List.nil_append] at ha
    simp [broadcast, broadcastEvents, ← ha]
  | cons P ports ih =>
    obtain ⟨x, replies, rfl⟩ := List.exists_cons_of_length_eq_add_one hl
    rw [broadcast, transceive_answered (rx := x) (rest := replies.map Answer.bytes ++ rest) (by simpa using ha)
      (by simp [h4 x (by simp)])]
    simp only
    rw [ih (replies := replies) (by simpa using hl) (fun r hr => h4 r (by simp [hr])) rfl]
    simp [broadcastEvents]

/-- A counter reset whose broadcast is answered. -/
theorem counterReset_answered {cls : DevClass} {r : TxStatus} {s : State} {replies : List Bytes} {rest : List Answer}
    (hl : replies.length = (rstccPorts s.chain).length) (h4 : ∀ rx ∈ replies, rx.length = 4)
    (ha : s.answers = replies.map Answer.bytes ++ rest) :
    counterReset cls r s = (r, { s with
      chain := { s.chain with ctr := zeroCounters cls s.chain.ctr }
      ctl := { s.ctl with phase := .counterReset }
      cs := (rstccPorts s.chain).foldl (fun lines P => lines.set P .deasserted) s.cs
      answers := rest
      trace := s.trace ++ broadcastEvents s.cfg (rstccPorts s.chain) replies }) := by
  have hports : rstccPorts ((s.enter .counterReset).setCtr (zeroCounters cls s.chain.ctr)).chain =
      rstccPorts s.chain := rfl
  unfold counterReset
  simp only [hports]
  rw [broadcast_eq (s := (s.enter .counterReset).setCtr (zeroCounters cls s.chain.ctr)) hl h4 ha]
  rfl

/-! ## CTRRESET (spec R270) -/

theorem exec_ctrreset (cls : DevClass) (s : State) :
    exec (.ctrreset cls) s = .next ((counterReset cls .success s).2.respond
      (Response.ofStatus (counterReset cls .success s).1 [])) := rfl

/-- Settles O41: the counter reset, answered, and a `Success` response. -/
theorem ctrresetBroadcasts : Obligations.CtrresetBroadcasts := by
  unfold Obligations.CtrresetBroadcasts
  intro cls s replies rest ports hl h4 ha
  have hports : rstccPorts s.chain = ports := rstccPorts_eq s.chain
  rw [exec_ctrreset, counterReset_answered (by rw [hports, hl]) h4 ha, hports, zeroCounters_eq]
  rfl

/-- Settles O42: the zeroing comes first, and the broadcast writes no register. -/
theorem ctrresetFrame : Obligations.CtrresetFrame := by
  unfold Obligations.CtrresetFrame
  intro cls s t hexec
  obtain ⟨evs, hran, -, hcount, -, hchain, hctl⟩ := counterReset_ran cls .success s nofun
  obtain rfl : t = (counterReset cls .success s).2.respond
      (Response.ofStatus (counterReset cls .success s).1 []) := by simpa [exec_ctrreset] using hexec.symm
  refine ⟨?_, hran.cfg, hran.host, ?_, evs,
    Response.ofStatus (counterReset cls .success s).1 [], ⟨?_, hran.quiet⟩, hcount, hran.answers⟩
  · rw [respond_chain, hchain, zeroCounters_eq]
  · simp only [State.respond, hctl]
  · rw [respond_trace, hran.trace]

/-! ## STATUS and INIT (spec R271, R272) -/

/-- Settles O39: the meaning is the response with the code of the chain status. -/
theorem statusAnswers : Obligations.StatusAnswers := by
  unfold Obligations.StatusAnswers
  intro s
  rfl

/-- Settles O40: the meaning writes the reset values and responds. -/
theorem initResetsChainInfo : Obligations.InitResetsChainInfo := by
  unfold Obligations.InitResetsChainInfo
  intro s
  rfl

end Sys2Proof.Machine

/-! PROOFS. COMMAND, WRITE and READ on a complete chain (44_transactor.md R258, R267 to R269): one exchange on the
current port (`iteration_complete_answered`, `iteration_complete_failed`), and what its result leads to. -/

namespace Sys2Proof.Machine

/-! ## The verdict is the response (spec R255, R257) -/

/-- The operation of a COMMAND (spec R267). -/
abbrev commandOp (cls : DevClass) (cmd : Word) : Operation := { kind := .command, cls := cls, cmd := cmd, data := [] }

/-- The operation of a WRITE (spec R268). -/
abbrev writeOp (cls : DevClass) (cmd : Word) (data : Bytes) : Operation :=
  { kind := .write, cls := cls, cmd := cmd, data := data }

/-- The operation of a READ (spec R269). -/
abbrev readOp (cls : DevClass) (cmd : Word) : Operation := { kind := .read, cls := cls, cmd := cmd, data := [] }

theorem exec_command (cls : DevClass) (cmd : Word) (s : State) :
    exec (.command cls cmd) s = .next (serve (commandOp cls cmd) s) := rfl

theorem exec_read (cls : DevClass) (cmd : Word) (s : State) :
    exec (.read cls cmd) s = .next (serve (readOp cls cmd) s) := rfl

theorem exec_write_of_length {cls : DevClass} {cmd : Word} {data : Bytes} {s : State}
    (hd : data.length = 6 * s.cfg.deviceCount) :
    exec (.write cls cmd data) s = .next (serve (writeOp cls cmd data) s) :=
  exec_operation_of_wellFormed rfl (decide_eq_true hd)

/-- The first iteration ends the request. -/
theorem serve_of_done {op : Operation} {s t : State} {st : TxStatus} {rd : Bytes}
    (h : iteration op s.latchCounters = (.done st rd, t)) : serve op s = t.respond (Response.ofStatus st rd) := by
  unfold serve operate
  rw [h]
  rfl

/-- A counter reset ends the request in its first iteration. -/
theorem serve_of_counterReset {op : Operation} {s t : State} {cls : DevClass} {r : TxStatus}
    (h : iteration op s.latchCounters = finish (counterReset cls r t)) :
    serve op s = (counterReset cls r t).2.respond (Response.ofStatus (counterReset cls r t).1 []) :=
  serve_of_done h

theorem ofStatus_nil (st : TxStatus) : Response.ofStatus st [] = ⟨st.code, 0, 0, 0, [], 0⟩ := by
  simp [Response.ofStatus, Response.ofCode]

/-! ## What one exchange leaves (spec R203) -/

/-- The block after one exchange on port `P`, answered by `a`, with the answers `rest` left. -/
def State.exchanged (s : State) (P : Port) (tx : Bytes) (a : Answer) (rest : List Answer) : State :=
  { s with
    cs := s.cs.set P .deasserted
    answers := rest
    trace := s.trace ++ exchangeEvents P tx a }

theorem transceive_eq_exchanged {P : Port} {tx : Bytes} {a : Answer} {s : State} {rest : List Answer}
    (h : s.answers = a :: rest) : transceive P tx s = (replyOf tx a, s.exchanged P tx a rest) :=
  transceive_queued h

/-- The answer to a COMMAND or WRITE is not inspected (spec R259). -/
theorem attemptResult_uninspected {op : Operation} (hop : op.kind ≠ .read) (c : Params) (snap : Counters) (P : Port)
    (k : Nat) (rx : Bytes) : attemptResult c snap op P k rx = (.success, []) := by
  unfold attemptResult
  split
  · rfl
  · rfl
  · exact absurd ‹_› hop

/-! ## One iteration on a complete chain (spec R258, R259) -/

section Complete

variable {op : Operation} {s : State} {rest : List Answer}

/-- The transmit buffer of an operation over the whole chain. -/
def fullTx (op : Operation) (s : State) : Bytes := attemptTx s.cfg op s.chain.currentPort s.cfg.deviceCount

/-- What an operation over the whole chain makes of the answer `rx`, if `snap` was latched. -/
def fullResult (op : Operation) (snap : Counters) (s : State) (rx : Bytes) : TxStatus × FrameData :=
  attemptResult s.cfg snap op s.chain.currentPort s.cfg.deviceCount rx

/-- The block after the one exchange of an operation over the whole chain. -/
def fullExchanged (op : Operation) (s : State) (a : Answer) (rest : List Answer) : State :=
  (s.enter .attemptCurrent).exchanged s.chain.currentPort (fullTx op s) a rest

theorem iteration_complete_answered {rx : Bytes} (hs : s.chain.status = .complete)
    (ha : s.answers = .bytes rx :: rest) (hl : rx.length = (fullTx op s).length) :
    iteration op s = completeOutcome op (fullResult op s.ctl.expSnap s rx).1 (fullResult op s.ctl.expSnap s rx).2
      (fullExchanged op s (.bytes rx) rest) := by
  have hattempt : attempt op s.chain.currentPort s.cfg.deviceCount (s.enter .attemptCurrent) =
      (fullResult op s.ctl.expSnap s rx, fullExchanged op s (.bytes rx) rest) := attempt_answered ha hl
  rw [iteration, if_pos hs, completeBranch, hattempt]

theorem attempt_failed {P : Port} {k : Nat} {a : Answer} (ha : s.answers = a :: rest)
    (hfail : replyOf (attemptTx s.cfg op P k) a = none) :
    attempt op P k s = ((.spiError, []), s.exchanged P (attemptTx s.cfg op P k) a rest) := by
  unfold attempt
  rw [transceive_eq_exchanged ha, hfail]

theorem iteration_complete_failed {a : Answer} (hs : s.chain.status = .complete) (ha : s.answers = a :: rest)
    (hfail : replyOf (fullTx op s) a = none) :
    iteration op s = (.done .spiError [], fullExchanged op s a rest) := by
  have hattempt : attempt op s.chain.currentPort s.cfg.deviceCount (s.enter .attemptCurrent) =
      ((.spiError, []), fullExchanged op s a rest) := attempt_failed (s := s.enter .attemptCurrent) ha hfail
  rw [iteration, if_pos hs, completeBranch, hattempt]
  rfl

/-- A success over the whole chain: the covered counters are incremented, and a WRITE or READ flips the port. -/
theorem serve_complete_success {rx : Bytes} {rd : FrameData} (hs : s.chain.status = .complete)
    (ha : s.answers = .bytes rx :: rest) (hl : rx.length = (fullTx op s).length)
    (hres : fullResult op s.chain.ctr s rx = (.success, rd)) :
    serve op s = { s with
      chain := { s.chain with
        ctr := incCounters op.cls s.chain.ctr
        currentPort := if op.kind = .command then s.chain.currentPort else otherPort s.chain.currentPort }
      cs := s.cs.set s.chain.currentPort .deasserted
      answers := rest
      trace := s.trace ++ exchangeEvents s.chain.currentPort (fullTx op s) (.bytes rx) ++
        [.response (Response.ofStatus .success (if op.kind = .read then rd.flat s.cfg.deviceCount else []))]
      ctl := { s.ctl with busy := false, phase := .idle, iter := .first, expSnap := s.chain.ctr } } := by
  have hit := iteration_complete_answered (op := op) (s := s.latchCounters) hs ha hl
  have hres' : fullResult op s.latchCounters.ctl.expSnap s.latchCounters rx = (.success, rd) := hres
  rw [hres'] at hit
  rw [serve_of_done hit]
  by_cases hcmd : op.kind = .command
  · simp only [hcmd, if_true]
    rfl
  · simp only [hcmd, if_false]
    rfl

/-- A failed exchange over the whole chain: `SpiError`, and no register is written. -/
theorem serve_complete_failed {a : Answer} (hs : s.chain.status = .complete) (ha : s.answers = a :: rest)
    (hfail : replyOf (fullTx op s) a = none) :
    serve op s = (fullExchanged op s.latchCounters a rest).respond (Response.ofStatus .spiError []) :=
  serve_of_done (iteration_complete_failed (op := op) (s := s.latchCounters) hs ha hfail)

end Complete

theorem otherPort_eq_ite (P : Port) : otherPort P = if P = .A then .B else .A := by cases P <;> rfl

/-- The payload of every device in logical order, each from its own slot (spec R164, R269). -/
theorem flat_frameData_eq (rx : Bytes) (P : Port) (n : Nat) :
    (frameData rx P n n).flat n =
      (List.range n).flatMap fun i => (rx.drop (4 + 8 * (if P = .B then i else n - 1 - i))).take 6 := by
  rw [flat_frameData]
  simp only [slotOf_eq_ite]
  rfl

/-! ## The statements -/

/-- Settles O43: a COMMAND is not inspected, so its answer is a success. -/
theorem commandOnACompleteChain : Obligations.CommandOnACompleteChain := by
  unfold Obligations.CommandOnACompleteChain
  intro cls cmd s rx rest hs ha hl
  rw [exec_command, serve_complete_success (op := commandOp cls cmd) hs ha hl rfl, incCounters_eq]
  rfl

/-- Settles O44: neither is a WRITE. -/
theorem writeOnACompleteChain : Obligations.WriteOnACompleteChain := by
  unfold Obligations.WriteOnACompleteChain
  intro cls cmd data s rx rest hs hd ha hl
  have htx : (fullTx (writeOp cls cmd data) s).length = 4 + 8 * s.cfg.deviceCount := buildWriteFrame_length hd le_rfl
  rw [exec_write_of_length hd, serve_complete_success hs ha (hl.trans htx.symm) rfl, incCounters_eq, otherPort_eq_ite]
  rfl

/-- Settles O45: every slot passes, so the frame is a success with its data. -/
theorem readOnACompleteChain : Obligations.ReadOnACompleteChain := by
  unfold Obligations.ReadOnACompleteChain
  intro cls cmd s rx rest n P hs ha hl hslots
  have hframe : frameStatus s.cfg rx P n n (expected s.cfg cls s.chain.ctr) = .success := frameStatus_success.2 hslots
  have hres : fullResult (readOp cls cmd) s.chain.ctr s rx = (.success, frameData rx P n n) :=
    attemptResult_read rfl hframe
  have htx : (fullTx (readOp cls cmd) s).length = 4 + 8 * n := buildReadTx_length s.cfg cmd n
  rw [exec_read, serve_complete_success hs ha (hl.trans htx.symm) hres, incCounters_eq, otherPort_eq_ite,
    flat_frameData_eq]
  rfl

/-- Settles O47: neither a transport failure nor an answer of another length is admitted. -/
theorem spiErrorOnACompleteChainChangesNothing : Obligations.SpiErrorOnACompleteChainChangesNothing := by
  unfold Obligations.SpiErrorOnACompleteChainChangesNothing
  intro i s a rest hwf hi tx hs ha hfail
  have hnone : replyOf tx a = none := by
    rcases hfail with rfl | ⟨rx, rfl, hne⟩
    · rfl
    · exact replyOf_bytes_ne hne
  obtain ⟨cls, cmd, data, hi⟩ := hi
  obtain ⟨op, hop, -⟩ := operationOf_of_eq hi
  have htx : fullTx op s = tx := by
    rcases operationOf_eq_some hop with ⟨hkind, rfl⟩ | ⟨hkind, rfl⟩ | ⟨hkind, rfl⟩ <;>
      simp only [fullTx, attemptTx, hkind, tx]
  refine ⟨_, (exec_operation_of_wellFormed hop hwf).trans
    (congrArg _ (serve_complete_failed hs ha (by rwa [htx]))), rfl, rfl, rfl, rfl, ?_⟩
  rw [← htx]
  rfl

end Sys2Proof.Machine

/-! PROOFS. COMMAND, WRITE and READ on a broken chain, and the counter reset and the re-probe that an operation ends in
(44_transactor.md R253, R260 to R265). On queued answers the dual-port branch comes to its evaluation
(`iteration_dual_answered`), a probe to its commit (`runProbe_commit_scripted`), and each statement is a chain of such
steps, `Reached` by `Reached`. -/

namespace Sys2Proof.Machine

/-! ## Steps on queued answers -/

/-- From `s` to `t` the block emitted `evs`, and the answers `rest` are left; the configuration, the host's requests and
the operands latched at acceptance stay. -/
structure Reached (s t : State) (evs : List Event) (rest : List Answer) : Prop where
  trace : t.trace = s.trace ++ evs
  answers : t.answers = rest
  cfg : t.cfg = s.cfg
  host : t.host = s.host
  operands : SameOperands s t

theorem Reached.trans {s t u : State} {xs ys : List Event} {rest rest' : List Answer} (h : Reached s t xs rest)
    (k : Reached t u ys rest') : Reached s u (xs ++ ys) rest' where
  trace := by rw [k.trace, h.trace, List.append_assoc]
  answers := k.answers
  cfg := k.cfg.trans h.cfg
  host := k.host.trans h.host
  operands := h.operands.trans k.operands

/-- A register or phase write, at the end of a step. -/
theorem Reached.write {s t u : State} {evs : List Event} {rest : List Answer} (h : Reached s t evs rest)
    (htr : u.trace = t.trace) (han : u.answers = t.answers) (hcfg : u.cfg = t.cfg) (hho : u.host = t.host)
    (hop : SameOperands t u) : Reached s u evs rest :=
  ⟨htr.trans h.trace, han.trans h.answers, hcfg.trans h.cfg, hho.trans h.host, h.operands.trans hop⟩

/-- The response follows what was emitted since the request's acceptance. -/
theorem Reached.respond {s t : State} {evs : List Event} {rest : List Answer} (h : Reached s.latchCounters t evs rest)
    (r : Response) :
    (t.respond r).trace = s.trace ++ evs ++ [.response r] ∧ (t.respond r).answers = rest ∧
      (t.respond r).cfg = s.cfg ∧ (t.respond r).host = s.host :=
  ⟨by rw [respond_trace, h.trace]; rfl, h.answers, h.cfg, h.host⟩

/-- The events and the response of an answer are those of the trace. -/
theorem Answered.eq_of_trace {s t : State} {evs evs' : List Event} {r r' : Response} (ha : Answered s t evs r)
    (htrace : t.trace = s.trace ++ evs' ++ [.response r']) : evs = evs' ∧ r = r' := by
  obtain ⟨htrace', -⟩ := ha
  rw [htrace', List.append_assoc, List.append_assoc] at htrace
  obtain ⟨hevs, hresp⟩ := List.append_inj' (List.append_cancel_left htrace) rfl
  exact ⟨hevs, by simpa using hresp⟩

/-- Every instruction is answered. -/
theorem exec_answered (i : Instr) (s : State) : ∃ t evs r, exec i s = .next t ∧ Answered s t evs r := by
  obtain ⟨u, evs, r, heq, hran, -⟩ := exec_served i s
  exact ⟨_, evs, r, heq, by rw [respond_trace, hran.trace], hran.quiet⟩

/-! ## The dual-port branch (spec R260, R261) -/

section DualPort

variable {op : Operation} {s : State} {rA rB : Bytes} {rest : List Answer}

/-- On queued answers of the right lengths a broken chain's branch comes to its evaluation. -/
theorem iteration_dual_answered (hs : s.chain.status ≠ .complete)
    (ha : s.answers = dualAnswers s.chain .A rA ++ (dualAnswers s.chain .B rB ++ rest))
    (hA : 0 < s.chain.availA → rA.length = (attemptTx s.cfg op .A s.chain.availA).length)
    (hB : 0 < s.chain.availB → rB.length = (attemptTx s.cfg op .B s.chain.availB).length) :
    ∃ t, iteration op s = dualEvaluate op
        (dualResult s.cfg s.chain s.ctl.expSnap op .A rA).1 (dualResult s.cfg s.chain s.ctl.expSnap op .A rA).2
        (dualResult s.cfg s.chain s.ctl.expSnap op .B rB).1 (dualResult s.cfg s.chain s.ctl.expSnap op .B rB).2 t ∧
      Reached s t (dualEvents s.cfg s.chain op .A rA ++ dualEvents s.cfg s.chain op .B rB) rest ∧
      t.chain = s.chain := by
  obtain ⟨t, hbranch, htrace, hanswers, hcfg, hhost, hchain, hops, -⟩ := dualBranch_answered ha hA hB
  refine ⟨t, ?_, ⟨by rw [htrace, List.append_assoc], hanswers, hcfg, hhost, hops⟩, hchain⟩
  rw [iteration, if_neg hs, hbranch]

/-- A READ's part of the branch is the parse of its frame, which is empty where the port reaches no device. -/
theorem dualResult_read (c : Params) (info : ChainInfo) (snap : Counters) (hop : op.kind = .read) (P : Port)
    (rx : Bytes) :
    dualResult c info snap op P rx =
      parseFrame c rx P c.deviceCount (info.avail P) (expected c op.cls snap) := by
  unfold dualResult
  split
  · simp only [attemptResult, hop]
  · rename_i hnone
    rw [Nat.eq_zero_of_not_pos hnone]
    rfl

/-- What an answer `rx` on port `P` that passes gives: a READ its payloads, another operation nothing. -/
def passedData (op : Operation) (s : State) (P : Port) (rx : Bytes) : FrameData :=
  if op.kind = .read then frameData rx P s.cfg.deviceCount (s.chain.avail P) else []

/-- The answer `rx` on port `P` passes: only a READ inspects it (spec R259). -/
def PortPasses (op : Operation) (s : State) (snap : Counters) (P : Port) (rx : Bytes) : Prop :=
  op.kind = .read →
    frameStatus s.cfg rx P s.cfg.deviceCount (s.chain.avail P) (expected s.cfg op.cls snap) = .success

theorem dualResult_passed {snap : Counters} {P : Port} {rx : Bytes} (h : PortPasses op s snap P rx) :
    dualResult s.cfg s.chain snap op P rx = (.success, passedData op s P rx) := by
  unfold passedData
  by_cases hop : op.kind = .read
  · rw [dualResult_read _ _ _ hop, if_pos hop]
    simp [parseFrame, h hop]
  · rw [if_neg hop]
    unfold dualResult
    split
    · exact attemptResult_uninspected hop _ _ _ _ _
    · rfl

theorem dualEvaluate_fault {x y : TxStatus} {dA dB : FrameData} (h : (worse x y).isCounterFault = true) :
    dualEvaluate op x dA y dB s = finish (counterReset op.cls (worse x y) ((s.enter .evaluate).setTally 0)) := by
  simp only [dualEvaluate, h, if_true]

theorem dualEvaluate_single {dA dB : FrameData} (hs : s.chain.status = .singleBreak) :
    dualEvaluate op .success dA .success dB s = singleSuccess op dA dB (s.enter .evaluate) := by
  simp [dualEvaluate, worse, TxStatus.isCounterFault, hs]

theorem dualEvaluate_multiple {dA dB : FrameData} (hs : s.chain.status = .multipleBreak) :
    dualEvaluate op .success dA .success dB s = reprobe (s.enter .evaluate) := by
  simp [dualEvaluate, worse, TxStatus.isCounterFault, hs]

/-! ## A success in `SingleBreak` (spec R262, R265) -/

theorem singleSuccess_counted {dA dB : FrameData} (ht : s.chain.tally + 1 ≠ s.cfg.dualPortLimit) :
    singleSuccess op dA dB s =
      (.done .success (dualData op s dA dB), (s.incCtr op.cls).setTally (s.chain.tally + 1)) := by
  simp only [singleSuccess, if_neg ht]

theorem singleSuccess_limit {dA dB : FrameData} (ht : s.chain.tally + 1 = s.cfg.dualPortLimit) :
    singleSuccess op dA dB s = tallyProbe (dualData op s dA dB) ((s.incCtr op.cls).setTally 0) := by
  simp only [singleSuccess, if_pos ht]

/-- In `SingleBreak` the two ports reach each device once (spec R37). -/
theorem reach_of_singleBreak {info : ChainInfo} {n : Nat} (hfits : info.statusFits n)
    (hs : info.status = .singleBreak) : info.availA + info.availB = n := by
  obtain ⟨-, hsingle, -⟩ := hfits
  obtain ⟨hsum, -⟩ := hsingle.1 hs
  exact hsum

/-- The payloads of a READ in `SingleBreak`: device `i` from port B if it reaches it, else from port A (spec R265). -/
def mergedPayloads (rA rB : Bytes) (b n : Nat) : Bytes :=
  (List.range n).flatMap fun i =>
    if i < b then (rB.drop (4 + 8 * i)).take 6 else (rA.drop (4 + 8 * (n - 1 - i))).take 6

/-- Where the two ports' reaches make up the chain, each device is found in the frame of its port. -/
theorem flat_mergeData {a b n : Nat} (hab : a + b = n) (rA rB : Bytes) :
    (mergeData b n (frameData rA .A n a) (frameData rB .B n b)).flat n = mergedPayloads rA rB b n := by
  refine List.flatMap_congr fun i hi => ?_
  have hin : i < n := List.mem_range.1 hi
  rw [FrameData.at, mergeData, List.lookup_graph _ hi, Option.getD_some]
  by_cases hib : i < b
  · rw [if_pos hib, if_pos hib, frameData_at hin hib (by omega)]
    rfl
  · have hslot : slotOf .A i n < a := by simp only [slotOf]; omega
    rw [if_neg hib, if_neg hib, frameData_at hin hslot (by omega)]
    rfl

/-- The data of a success in `SingleBreak`. -/
theorem dualData_passed (hab : s.chain.availA + s.chain.availB = s.cfg.deviceCount) :
    dualData op s (passedData op s .A rA) (passedData op s .B rB) =
      if op.kind = .read then mergedPayloads rA rB s.chain.availB s.cfg.deviceCount else [] := by
  unfold dualData passedData
  split
  · exact flat_mergeData hab rA rB
  · rfl

/-- Both answers pass, and what follows is the success. -/
theorem iteration_single_answered (hs : s.chain.status = .singleBreak)
    (ha : s.answers = dualAnswers s.chain .A rA ++ (dualAnswers s.chain .B rB ++ rest))
    (hA : 0 < s.chain.availA → rA.length = (attemptTx s.cfg op .A s.chain.availA).length)
    (hB : 0 < s.chain.availB → rB.length = (attemptTx s.cfg op .B s.chain.availB).length)
    (hpassA : PortPasses op s s.ctl.expSnap .A rA) (hpassB : PortPasses op s s.ctl.expSnap .B rB) :
    ∃ t, iteration op s = singleSuccess op (passedData op s .A rA) (passedData op s .B rB) t ∧
      Reached s t (dualEvents s.cfg s.chain op .A rA ++ dualEvents s.cfg s.chain op .B rB) rest ∧
      t.chain = s.chain := by
  obtain ⟨t, hit, hreached, hchain⟩ := iteration_dual_answered (by rw [hs]; nofun) ha hA hB
  rw [dualResult_passed hpassA, dualResult_passed hpassB, dualEvaluate_single (by rw [hchain, hs])] at hit
  exact ⟨t.enter .evaluate, hit, hreached.write rfl rfl rfl rfl (SameOperands.ofPhase rfl), hchain⟩

/-- Below the tally limit the success is counted, and the request ends. -/
theorem serve_single_counted (hs : s.chain.status = .singleBreak)
    (ht : s.chain.tally + 1 ≠ s.cfg.dualPortLimit)
    (ha : s.answers = dualAnswers s.chain .A rA ++ (dualAnswers s.chain .B rB ++ rest))
    (hA : 0 < s.chain.availA → rA.length = (attemptTx s.cfg op .A s.chain.availA).length)
    (hB : 0 < s.chain.availB → rB.length = (attemptTx s.cfg op .B s.chain.availB).length)
    (hpassA : PortPasses op s s.chain.ctr .A rA) (hpassB : PortPasses op s s.chain.ctr .B rB) :
    (serve op s).chain =
        { s.chain with ctr := incCounters op.cls s.chain.ctr, tally := s.chain.tally + 1 } ∧
      (serve op s).trace = s.trace ++ (dualEvents s.cfg s.chain op .A rA ++ dualEvents s.cfg s.chain op .B rB) ++
        [.response (Response.ofStatus .success
          (dualData op s (passedData op s .A rA) (passedData op s .B rB)))] ∧
      (serve op s).answers = rest ∧ (serve op s).cfg = s.cfg ∧ (serve op s).host = s.host := by
  obtain ⟨t, hit, hreached, hchain⟩ :=
    iteration_single_answered (s := s.latchCounters) hs ha hA hB hpassA hpassB
  have hchain' : t.chain = s.chain := hchain
  have hcfg : t.cfg = s.cfg := hreached.cfg
  have hdata : ∀ dA dB, dualData op t dA dB = dualData op s dA dB := fun dA dB => by
    simp only [dualData, hchain', hcfg]
  rw [singleSuccess_counted (by rwa [hchain', hcfg]), hdata] at hit
  rw [serve_of_done hit]
  refine ⟨?_, (hreached.write (u := (t.incCtr op.cls).setTally (t.chain.tally + 1)) rfl rfl rfl rfl
    (SameOperands.ofCtl rfl)).respond _⟩
  rw [← hchain']
  rfl

end DualPort

/-! ## The statements on a success in `SingleBreak` (spec R260, R262) -/

/-- The replies of a broadcast, or of a COMMAND, to the ports that reach a device, taken apart by port. -/
theorem replies_by_port {info : ChainInfo} {replies : List Bytes}
    (hl : replies.length = (reachingPorts info).length) :
    ∃ rA rB, replies.map Answer.bytes = dualAnswers info .A rA ++ dualAnswers info .B rB ∧
      (0 < info.availA → rA ∈ replies) ∧ (0 < info.availB → rB ∈ replies) ∧
      ∀ tx, (List.zipWith (fun P rx => exchangeEvents P tx (.bytes rx)) (reachingPorts info) replies).flatten =
        (if 0 < info.availA then exchangeEvents .A tx (.bytes rA) else []) ++
          (if 0 < info.availB then exchangeEvents .B tx (.bytes rB) else []) := by
  unfold reachingPorts at hl ⊢
  unfold dualAnswers
  simp only [ChainInfo.avail]
  by_cases hA : 0 < info.availA <;> by_cases hB : 0 < info.availB <;>
    simp only [hA, hB, if_true, if_false, List.append_nil, List.nil_append, List.length_append, List.length_cons,
      List.length_nil] at hl ⊢
  · obtain ⟨x, y, rfl⟩ := List.length_eq_two.1 hl
    exact ⟨x, y, rfl, by simp, by simp, fun tx => by simp⟩
  · obtain ⟨x, rfl⟩ := List.length_eq_one_iff.1 hl
    exact ⟨x, x, rfl, by simp, by simp, fun tx => by simp⟩
  · obtain ⟨x, rfl⟩ := List.length_eq_one_iff.1 hl
    exact ⟨x, x, rfl, by simp, by simp, fun tx => by simp⟩
  · obtain rfl := List.length_eq_zero_iff.1 hl
    exact ⟨[], [], rfl, by simp, by simp, fun tx => rfl⟩

/-- Settles O48: a COMMAND is not inspected, so both ports' answers pass. -/
theorem commandOnASingleBreak : Obligations.CommandOnASingleBreak := by
  unfold Obligations.CommandOnASingleBreak
  intro cls cmd s replies rest ports hs ht hl h4 ha
  obtain ⟨rA, rB, hmap, hA, hB, hevs⟩ := replies_by_port hl
  rw [hmap, List.append_assoc] at ha
  obtain ⟨hchain, htrace, hframe⟩ := serve_single_counted (op := commandOp cls cmd) hs ht ha
    (fun h => h4 rA (hA h)) (fun h => h4 rB (hB h)) nofun nofun
  refine ⟨_, exec_command cls cmd s, ?_, ?_, hframe⟩
  · rw [hchain, incCounters_eq]
  · rw [htrace]
    exact congrArg (fun evs => s.trace ++ evs ++ _) (hevs _).symm

/-- Settles O49: neither is a WRITE, whose frames have the lengths of the ports' reaches. -/
theorem writeOnASingleBreak : Obligations.WriteOnASingleBreak := by
  unfold Obligations.WriteOnASingleBreak
  intro cls cmd data s rA rB rest n a b hfits hs ht hd ha hA hB
  have hab : a + b = n := reach_of_singleBreak hfits hs
  have hlen : ∀ P k, k ≤ n → (attemptTx s.cfg (writeOp cls cmd data) P k).length = 4 + 8 * k :=
    fun P k hk => buildWriteFrame_length hd hk
  obtain ⟨hchain, htrace, hframe⟩ := serve_single_counted hs ht (by rw [ha, List.append_assoc]; rfl)
    (fun _ => hA.trans (hlen .A a (by omega)).symm) (fun _ => hB.trans (hlen .B b (by omega)).symm) nofun nofun
  refine ⟨_, exec_write_of_length hd, ?_, ?_, hframe⟩
  · rw [hchain, incCounters_eq]
  · rw [htrace, ← List.append_assoc s.trace]
    rfl

/-- Settles O50: both frames pass, and their payloads are merged. -/
theorem readOnASingleBreakMergesBothPorts : Obligations.ReadOnASingleBreakMergesBothPorts := by
  unfold Obligations.ReadOnASingleBreakMergesBothPorts
  intro cls cmd s rA rB rest n a b hfits hs ht ha hA hB hokA hokB
  have hab : a + b = n := reach_of_singleBreak hfits hs
  have hlen : ∀ P k, (attemptTx s.cfg (readOp cls cmd) P k).length = 4 + 8 * k :=
    fun P k => buildReadTx_length s.cfg cmd k
  obtain ⟨hchain, htrace, hframe⟩ := serve_single_counted hs ht (by rw [ha, List.append_assoc]; rfl)
    (fun _ => hA.trans (hlen .A a).symm) (fun _ => hB.trans (hlen .B b).symm) (fun _ => hokA) (fun _ => hokB)
  refine ⟨_, exec_read cls cmd s, ?_, ?_, hframe⟩
  · rw [hchain, incCounters_eq]
  · rw [htrace, dualData_passed hab, ← List.append_assoc s.trace]
    rfl

/-! ## A counter fault of a READ (spec R253, R258, R261) -/

theorem completeOutcome_fault {op : Operation} {r : TxStatus} (rd : FrameData) (s : State)
    (h : r.isCounterFault = true) : completeOutcome op r rd s = finish (counterReset op.cls r s) := by
  cases r with
  | porError | commandCounterError => rfl
  | _ => cases h

/-- On a complete chain the reset is broadcast on the current port alone, whatever the answer. -/
theorem counterReset_complete {cls : DevClass} {r : TxStatus} {s : State} {a : Answer} {rest : List Answer}
    (hs : s.chain.status = .complete) (ha : s.answers = a :: rest) :
    (counterReset cls r s).1 =
        (if (replyOf (buildCommandFrame s.cfg s.cfg.cmdRstcc) a).isSome then r else .spiError) ∧
      (counterReset cls r s).2.trace =
        s.trace ++ exchangeEvents s.chain.currentPort (buildCommandFrame s.cfg s.cfg.cmdRstcc) a ∧
      (counterReset cls r s).2.answers = rest := by
  have hports : rstccPorts ((s.enter .counterReset).setCtr (zeroCounters cls s.chain.ctr)).chain =
      [s.chain.currentPort] := if_pos hs
  have hsent := transceive_queued (P := s.chain.currentPort) (tx := buildCommandFrame s.cfg s.cfg.cmdRstcc)
    (s := (s.enter .counterReset).setCtr (zeroCounters cls s.chain.ctr)) ha
  unfold counterReset
  simp only [hports, broadcast, setCtr_cfg, enter_cfg, hsent]
  cases replyOf (buildCommandFrame s.cfg s.cfg.cmdRstcc) a with
  | none => exact ⟨rfl, rfl, rfl⟩
  | some rx => exact ⟨rfl, rfl, rfl⟩

/-- A counter reset whose broadcast fails on the port after the answered ones. -/
theorem counterReset_failed {cls : DevClass} {r : TxStatus} {s : State} {replies : List Bytes} {x : Answer}
    {rest : List Answer} (hl : replies.length < (rstccPorts s.chain).length) (h4 : ∀ rx ∈ replies, rx.length = 4)
    (hx : replyOf (buildCommandFrame s.cfg s.cfg.cmdRstcc) x = none)
    (ha : s.answers = replies.map Answer.bytes ++ x :: rest) :
    (counterReset cls r s).1 = .spiError ∧
      (counterReset cls r s).2.trace = s.trace ++ broadcastEvents s.cfg (rstccPorts s.chain) replies ++
        exchangeEvents ((rstccPorts s.chain).getD replies.length .A) (buildCommandFrame s.cfg s.cfg.cmdRstcc) x ∧
      (counterReset cls r s).2.answers = rest := by
  obtain ⟨hfail, htrace, hanswers⟩ := broadcast_failed (rstccPorts s.chain) replies x rest
    ((s.enter .counterReset).setCtr (zeroCounters cls s.chain.ctr)) hl h4 hx ha
  have hports : rstccPorts ((s.enter .counterReset).setCtr (zeroCounters cls s.chain.ctr)).chain =
      rstccPorts s.chain := rfl
  unfold counterReset
  simp only [hports]
  generalize broadcast (rstccPorts s.chain) ((s.enter .counterReset).setCtr (zeroCounters cls s.chain.ctr)) = b at *
  obtain ⟨ok, u⟩ := b
  obtain rfl : ok = false := hfail
  exact ⟨rfl, htrace, hanswers⟩

theorem isCounterFault_iff {r : TxStatus} : r.isCounterFault = true ↔ r = .porError ∨ r = .commandCounterError := by
  cases r <;> decide

/-- On a complete chain the fault of the one frame is followed by the counter reset on the current port. -/
theorem counterFault_complete {cls : DevClass} {cmd : Word} {s : State} {rx : Bytes} {a : Answer} {rest : List Answer}
    {fault : TxStatus} (hs : s.chain.status = .complete) (ha : s.answers = .bytes rx :: a :: rest)
    (hl : rx.length = 4 + 8 * s.cfg.deviceCount)
    (hframe : frameStatus s.cfg rx s.chain.currentPort s.cfg.deviceCount s.cfg.deviceCount
      (expected s.cfg cls s.chain.ctr) = fault) (hfault : fault.isCounterFault = true) :
    (serve (readOp cls cmd) s).chain = { s.chain with ctr := zeroCounters cls s.chain.ctr } ∧
      (serve (readOp cls cmd) s).trace =
        s.trace ++ exchangeEvents s.chain.currentPort (buildReadTx s.cfg cmd s.cfg.deviceCount) (.bytes rx) ++
          exchangeEvents s.chain.currentPort (buildCommandFrame s.cfg s.cfg.cmdRstcc) a ++
          [.response (Response.ofStatus
            (if (replyOf (buildCommandFrame s.cfg s.cfg.cmdRstcc) a).isSome then fault else .spiError) [])] ∧
      (serve (readOp cls cmd) s).answers = rest ∧ (serve (readOp cls cmd) s).cfg = s.cfg ∧
      (serve (readOp cls cmd) s).host = s.host := by
  have hres : fullResult (readOp cls cmd) s.latchCounters.ctl.expSnap s.latchCounters rx = (fault, []) :=
    attemptResult_read_fault rfl hframe (by rintro rfl; cases hfault)
  have htx : (fullTx (readOp cls cmd) s.latchCounters).length = 4 + 8 * s.cfg.deviceCount :=
    buildReadTx_length s.cfg cmd s.cfg.deviceCount
  have hit := iteration_complete_answered (s := s.latchCounters) hs ha (hl.trans htx.symm)
  rw [hres, completeOutcome_fault _ _ hfault] at hit
  obtain ⟨hst, htrace, hanswers⟩ := counterReset_complete (cls := cls) (r := fault)
    (s := fullExchanged (readOp cls cmd) s.latchCounters (.bytes rx) (a :: rest)) hs rfl
  obtain ⟨evs, hran, -, -, -, hchain, -⟩ := counterReset_ran cls fault
    (fullExchanged (readOp cls cmd) s.latchCounters (.bytes rx) (a :: rest)) (isCounterFault_ne_spi hfault)
  rw [serve_of_counterReset hit, hst]
  refine ⟨hchain, ?_, hanswers, hran.cfg, hran.host⟩
  rw [respond_trace, htrace]
  rfl

/-- On a broken chain the worse of the two ports' frames is the fault, and the counter reset follows. -/
theorem serve_dual_fault {cls : DevClass} {cmd : Word} {s : State} {rA rB : Bytes} {more : List Answer}
    {fault : TxStatus} (hs : s.chain.status ≠ .complete)
    (ha : s.answers = dualAnswers s.chain .A rA ++ (dualAnswers s.chain .B rB ++ more))
    (hA : 0 < s.chain.availA → rA.length = 4 + 8 * s.chain.availA)
    (hB : 0 < s.chain.availB → rB.length = 4 + 8 * s.chain.availB)
    (hworse : worse
      (frameStatus s.cfg rA .A s.cfg.deviceCount s.chain.availA (expected s.cfg cls s.chain.ctr))
      (frameStatus s.cfg rB .B s.cfg.deviceCount s.chain.availB (expected s.cfg cls s.chain.ctr)) = fault)
    (hfault : fault.isCounterFault = true) :
    ∃ u, serve (readOp cls cmd) s =
        (counterReset cls fault u).2.respond (Response.ofStatus (counterReset cls fault u).1 []) ∧
      Reached s.latchCounters u
        (dualEvents s.cfg s.chain (readOp cls cmd) .A rA ++ dualEvents s.cfg s.chain (readOp cls cmd) .B rB) more ∧
      u.chain = { s.chain with tally := 0 } := by
  have hlen : ∀ P k, (attemptTx s.cfg (readOp cls cmd) P k).length = 4 + 8 * k :=
    fun P k => buildReadTx_length s.cfg cmd k
  obtain ⟨t, hit, hreached, hchain⟩ := iteration_dual_answered (op := readOp cls cmd) (s := s.latchCounters) hs ha
    (fun h => (hA h).trans (hlen .A _).symm) (fun h => (hB h).trans (hlen .B _).symm)
  have hworse' : worse
      (dualResult s.latchCounters.cfg s.latchCounters.chain s.latchCounters.ctl.expSnap (readOp cls cmd) .A rA).1
      (dualResult s.latchCounters.cfg s.latchCounters.chain s.latchCounters.ctl.expSnap (readOp cls cmd) .B rB).1 =
      fault := by
    rw [dualResult_read _ _ _ rfl, dualResult_read _ _ _ rfl]
    exact hworse
  rw [dualEvaluate_fault (by rwa [hworse']), hworse'] at hit
  refine ⟨(t.enter .evaluate).setTally 0, serve_of_counterReset hit,
    hreached.write rfl rfl rfl rfl (SameOperands.ofPhase rfl), ?_⟩
  have hchain' : t.chain = s.chain := hchain
  rw [← hchain']
  rfl

/-- Settles O46: the counter reset after the fault, on a complete chain and on a broken one. -/
theorem counterFaultResetsTheCounters : Obligations.CounterFaultResetsTheCounters := by
  unfold Obligations.CounterFaultResetsTheCounters
  refine ⟨?_, ?_⟩
  · intro cls cmd s rx a rest n P fault hs ha hl hfault
    obtain ⟨hchain, htrace, hframe⟩ :=
      counterFault_complete (cmd := cmd) hs ha hl rfl (isCounterFault_iff.2 hfault)
    refine ⟨_, exec_read cls cmd s, ?_, ?_, hframe⟩
    · rw [hchain, zeroCounters_eq]
    · rw [htrace, ofStatus_nil]
      split <;> rfl
  · intro cls cmd s rA rB more n a b exp fault ports frame broadcasts reads hs ha hA hB hfault
    have hf := isCounterFault_iff.2 hfault
    obtain ⟨u, hserve, hreached, hchain⟩ :=
      serve_dual_fault (cmd := cmd) hs (by rw [ha, List.append_assoc]; rfl) hA hB rfl hf
    have hports : rstccPorts u.chain = ports := by
      rw [rstccPorts_eq, hchain]
      exact if_neg hs
    have hcfg : u.cfg = s.cfg := hreached.cfg
    have htrace : u.trace = s.trace ++ reads := hreached.trace
    obtain ⟨evs, hran, -, -, -, hreset, -⟩ := counterReset_ran cls fault u (isCounterFault_ne_spi hf)
    refine ⟨_, exec_read cls cmd s, ?_, ?_, ?_, ?_, ?_⟩
    · rw [hserve, respond_chain, hreset, hchain, zeroCounters_eq]
    · rw [hserve, respond_cfg, hran.cfg, hcfg]
    · rw [hserve, respond_host, hran.host, hreached.host]
      rfl
    · rintro replies rest hl h4 rfl
      have hdone := counterReset_answered (cls := cls) (r := fault) (by rw [hports, hl]) h4 hreached.answers
      rw [hserve, hdone, hports, hcfg]
      refine ⟨?_, rfl⟩
      rw [respond_trace, htrace, ofStatus_nil]
      rfl
    · rintro replies x rest hl h4 hx rfl
      obtain ⟨hst, hend, hanswers⟩ := counterReset_failed (cls := cls) (r := fault) (by rwa [hports]) h4
        (by rwa [hcfg]) hreached.answers
      rw [hserve, hst]
      refine ⟨?_, hanswers⟩
      rw [respond_trace, hend, htrace, hports, hcfg]
      rfl

/-! ## A probe on queued answers, and its commit (spec R225, R228) -/

/-- The worst counter fault that the two ports' scripts show to a probe that starts with the counters `ctr`. -/
def probeFault (c : Params) (ctr : Counters) (a b : Nat) (sa sb : List Bytes) : TxStatus :=
  scriptFault c .B (expected c .shared ctr) b sb (scriptFault c .A (expected c .shared ctr) a sa .success)

/-- The events of a probe answered by the two ports' scripts. -/
def probeEvents (c : Params) (sa sb : List Bytes) : List Event := scanEvents c .A sa 1 ++ scanEvents c .B sb 1

theorem probeEvents_count (c : Params) (sa sb : List Bytes) :
    xferCount (probeEvents c sa sb) = sa.length + sb.length := by
  rw [probeEvents, xferCount_append, scanEvents_count, scanEvents_count]

section Probe

variable {s : State} {a b : Nat} {sa sb : List Bytes} {rest : List Answer}

theorem runProbe_commit_scripted (ph : Phase) (ha : ScanScript s.cfg a sa) (hb : ScanScript s.cfg b sb)
    (hans : s.answers = (sa ++ sb).map Answer.bytes ++ rest) :
    ∃ u, runProbe (s.enter ph) =
        (.found (classify a b s.cfg.deviceCount) a b (probeFault s.cfg s.chain.ctr a b sa sb), u) ∧
      Reached s (u.commit (classify a b s.cfg.deviceCount) a b) (probeEvents s.cfg sa sb) rest ∧
      (u.commit (classify a b s.cfg.deviceCount) a b).chain =
        s.chain.commit (classify a b s.cfg.deviceCount) a b := by
  obtain ⟨u, hprobe, htrace, hanswers, hcfg, hhost, hchain, hsame, -⟩ :=
    runProbe_scripted (s.enter ph) a b sa sb rest ha hb hans
  have hops : SameOperands (s.enter ph) u := .ofProbe hsame
  refine ⟨u, hprobe, ⟨?_, hanswers, hcfg, hhost, hops⟩, ?_⟩
  · rw [commit_trace, htrace, List.append_assoc]
    rfl
  · rw [State.commit, setChain_chain, hchain]
    rfl

/-- A re-probe answered by scripts comes to its outcome. -/
theorem reprobe_scripted (ha : ScanScript s.cfg a sa) (hb : ScanScript s.cfg b sb)
    (hans : s.answers = (sa ++ sb).map Answer.bytes ++ rest) :
    ∃ t, reprobe s = reprobeOutcome (probeFault s.cfg s.chain.ctr a b sa sb) t ∧
      Reached s t (probeEvents s.cfg sa sb) rest ∧ t.chain = s.chain.commit (classify a b s.cfg.deviceCount) a b := by
  obtain ⟨u, hprobe, hreached, hchain⟩ := runProbe_commit_scripted .reprobe ha hb hans
  refine ⟨_, ?_, hreached, hchain⟩
  rw [reprobe, hprobe]

/-- A tally-triggered probe answered by scripts comes to its outcome. -/
theorem tallyProbe_scripted (rd : Bytes) (ha : ScanScript s.cfg a sa) (hb : ScanScript s.cfg b sb)
    (hans : s.answers = (sa ++ sb).map Answer.bytes ++ rest) :
    ∃ t, tallyProbe rd s = tallyOutcome rd (probeFault s.cfg s.chain.ctr a b sa sb) t ∧
      Reached s t (probeEvents s.cfg sa sb) rest ∧ t.chain = s.chain.commit (classify a b s.cfg.deviceCount) a b := by
  obtain ⟨u, hprobe, hreached, hchain⟩ := runProbe_commit_scripted .tallyProbe ha hb hans
  refine ⟨_, ?_, hreached, hchain⟩
  rw [tallyProbe, hprobe]

/-- A re-probe without a counter fault that finds `MultipleBreak` reports the break (spec R264). -/
theorem reprobeOutcome_broken (hs : s.chain.status = .multipleBreak) :
    reprobeOutcome .success s = (.done .chainBreakError [], s) := by
  rw [reprobeOutcome, if_neg (by decide), if_pos (.inr hs)]

/-- In the first iteration one that finds another chain status asks for the retry (spec R264). -/
theorem reprobeOutcome_retry (hit : s.ctl.iter = .first) (hs : s.chain.status ≠ .multipleBreak) :
    reprobeOutcome .success s = (.retry, s) := by
  rw [reprobeOutcome, if_neg (by decide), if_neg (by simp [hit, hs])]

end Probe

end Sys2Proof.Machine

/-! PROOFS. Operations on a broken chain that probe (44_transactor.md R262 to R264): the success that reaches the tally
limit, the READ whose frame breaks, and the COMMAND on a healed chain. Each is the branch, the probe of
`runProbe_commit_scripted` and what follows its commit. -/

namespace Sys2Proof.Machine

/-! ## The tally limit (spec R262) -/

/-- The events of a dual-port attempt make one exchange on a port that reaches a device. -/
theorem dualEvents_count (c : Params) (info : ChainInfo) (op : Operation) (P : Port) (rx : Bytes) :
    xferCount (dualEvents c info op P rx) = if 0 < info.avail P then 1 else 0 := by
  unfold dualEvents
  split
  · exact exchangeEvents_count _ _ _
  · rfl

/-- The length of an attempt's transmit buffer (spec R117, R259). -/
theorem attemptTx_length {c : Params} {op : Operation} {P : Port} {k : Nat}
    (hdata : op.kind = .write → op.data.length = 6 * c.deviceCount) (hk : k ≤ c.deviceCount) :
    (attemptTx c op P k).length = if op.kind = .command then 4 else 4 + 8 * k := by
  unfold attemptTx
  cases hkind : op.kind with
  | command => rfl
  | write => exact buildWriteFrame_length (hdata hkind) hk
  | read => exact buildReadTx_length c op.cmd k

section Limit

variable {op : Operation} {s : State} {rA rB : Bytes} {a b : Nat} {sa sb : List Bytes} {rest : List Answer}

/-- The success at the tally limit counts, zeroes the tally, probes and commits; the probe expects the counters already
incremented. -/
theorem iteration_at_limit (hs : s.chain.status = .singleBreak) (ht : s.chain.tally + 1 = s.cfg.dualPortLimit)
    (hans : s.answers = dualAnswers s.chain .A rA ++ (dualAnswers s.chain .B rB ++
      ((sa ++ sb).map Answer.bytes ++ rest)))
    (hA : 0 < s.chain.availA → rA.length = (attemptTx s.cfg op .A s.chain.availA).length)
    (hB : 0 < s.chain.availB → rB.length = (attemptTx s.cfg op .B s.chain.availB).length)
    (hpassA : PortPasses op s s.ctl.expSnap .A rA) (hpassB : PortPasses op s s.ctl.expSnap .B rB)
    (ha : ScanScript s.cfg a sa) (hb : ScanScript s.cfg b sb) :
    ∃ t, iteration op s =
        tallyOutcome (dualData op s (passedData op s .A rA) (passedData op s .B rB))
          (probeFault s.cfg (incCounters op.cls s.chain.ctr) a b sa sb) t ∧
      Reached s t (dualEvents s.cfg s.chain op .A rA ++ dualEvents s.cfg s.chain op .B rB ++
        probeEvents s.cfg sa sb) rest ∧
      t.chain = { s.chain with
        ctr := incCounters op.cls s.chain.ctr
        tally := 0
        status := classify a b s.cfg.deviceCount
        availA := a
        availB := b } := by
  obtain ⟨u, hit, hreached, hchain⟩ := iteration_single_answered hs hans hA hB hpassA hpassB
  have hcfg : u.cfg = s.cfg := hreached.cfg
  have hdata : ∀ dA dB, dualData op u dA dB = dualData op s dA dB := fun dA dB => by
    simp only [dualData, hchain, hcfg]
  rw [singleSuccess_limit (by rwa [hchain, hcfg]), hdata] at hit
  have hcounted : ((u.incCtr op.cls).setTally 0).chain =
      { s.chain with ctr := incCounters op.cls s.chain.ctr, tally := 0 } := by
    rw [← hchain]
    rfl
  obtain ⟨t, hprobe, hprobed, hcommit⟩ := tallyProbe_scripted (s := (u.incCtr op.cls).setTally 0)
    (dualData op s (passedData op s .A rA) (passedData op s .B rB)) (by rwa [setTally_cfg, incCtr_cfg, hcfg])
    (by rwa [setTally_cfg, incCtr_cfg, hcfg]) hreached.answers
  rw [hcounted, setTally_cfg, incCtr_cfg, hcfg] at hprobe hcommit
  rw [setTally_cfg, incCtr_cfg, hcfg] at hprobed
  refine ⟨t, hit.trans hprobe, (hreached.write (u := (u.incCtr op.cls).setTally 0) rfl rfl rfl rfl
    (SameOperands.ofCtl rfl)).trans hprobed, ?_⟩
  rw [hcommit, ChainInfo.commit, ite_self]

end Limit

/-- A well-formed COMMAND, WRITE or READ as an operation. -/
theorem operation_of_eq {i : Instr} {cls : DevClass} {cmd : Word} {data : Bytes} {c : Params}
    (hi : i = .command cls cmd ∨ i = .write cls cmd data ∨ i = .read cls cmd) (hwf : i.wf c = true) :
    ∃ op, operationOf i = some op ∧ op.cls = cls ∧ (op.kind = .command ↔ i = .command cls cmd) ∧
      (op.kind = .read ↔ i = .read cls cmd) ∧ (op.kind = .write → op.data.length = 6 * c.deviceCount) := by
  rcases hi with rfl | rfl | rfl
  · exact ⟨commandOp cls cmd, rfl, rfl, by simp, by simp, nofun⟩
  · exact ⟨writeOp cls cmd data, rfl, rfl, by simp, by simp, fun _ => of_decide_eq_true hwf⟩
  · exact ⟨readOp cls cmd, rfl, rfl, by simp, by simp, nofun⟩

/-- Settles O51: after the success, the probe's counter fault decides. -/
theorem tallyLimitTriggersAProbe : Obligations.TallyLimitTriggersAProbe := by
  unfold Obligations.TallyLimitTriggersAProbe
  intro i cls cmd data s rA rB a b sa sb rest n dA dB isRead frameLength exp pf hi hwf hfits hs ht hans hA hB hok ha hb
  obtain ⟨op, hop, rfl, hcommand, hread, hdata⟩ := operation_of_eq hi hwf
  have hab : dA + dB = n := reach_of_singleBreak hfits hs
  have hlen : ∀ P k, k ≤ n → (attemptTx s.cfg op P k).length = frameLength k := fun P k hk =>
    (attemptTx_length hdata hk).trans (if_congr hcommand rfl rfl)
  obtain ⟨u, hit, hreached, hchain⟩ := iteration_at_limit (op := op) (s := s.latchCounters) hs ht
    (by rw [latchCounters_answers, hans, List.append_assoc]; rfl)
    (fun h => (hA h).trans (hlen .A dA (by omega)).symm) (fun h => (hB h).trans (hlen .B dB (by omega)).symm)
    (fun hk => (hok (hread.1 hk)).1) (fun hk => (hok (hread.1 hk)).2) ha hb
  have hpf : probeFault s.cfg (incCounters op.cls s.chain.ctr) a b sa sb = pf := rfl
  rw [latchCounters_cfg, latchCounters_chain, hpf] at hit
  obtain ⟨t, evs, r, hexec, hanswered⟩ := exec_answered i s
  obtain rfl : t = serve op s := by simpa [hexec] using exec_operation_of_wellFormed hop hwf
  refine ⟨_, evs, r, hexec, hanswered, fun hclean => ?_, fun hfault => ?_⟩
  · have hmerged := dualData_passed (op := op) (s := s.latchCounters) (rA := rA) (rB := rB) hab
    rw [hclean, tallyOutcome, if_neg (by decide), hmerged] at hit
    obtain ⟨htrace, hanswers, -⟩ := hreached.respond (Response.ofStatus .success
      (if op.kind = .read then mergedPayloads rA rB s.chain.availB s.cfg.deviceCount else []))
    rw [serve_of_done hit] at hanswered ⊢
    obtain ⟨rfl, rfl⟩ := hanswered.eq_of_trace htrace
    refine ⟨?_, ?_, hchain, hanswers⟩
    · rw [if_congr hread rfl rfl]
      rfl
    · rw [xferCount_append, xferCount_append, dualEvents_count, dualEvents_count, probeEvents_count, ← Nat.add_assoc]
      rfl
  · have hf : pf.isCounterFault = true := isCounterFault_iff.2 hfault
    rw [tallyOutcome, if_pos hf] at hit
    obtain ⟨-, -, -, -, hst, hreset, -⟩ := counterReset_ran .shared pf u (isCounterFault_ne_spi hf)
    rw [serve_of_counterReset hit] at hanswered ⊢
    rw [hanswered.response_eq, ofStatus_nil]
    refine ⟨?_, ?_⟩
    · rcases hst with hst | hst
      · exact .inl (by rw [hst])
      · exact .inr (by rw [hst]; rfl)
    · rw [respond_chain, hreset, hchain]
      rfl

/-! ## A broken READ (spec R258, R264) -/

/-- The exchange of an operation over the whole chain, as a step. -/
theorem fullExchanged_reached (op : Operation) (s : State) (a : Answer) (rest : List Answer) :
    Reached s (fullExchanged op s a rest) (exchangeEvents s.chain.currentPort (fullTx op s) a) rest :=
  ⟨rfl, rfl, rfl, rfl, SameOperands.ofPhase rfl⟩

/-- Settles O52: the re-probe commits `MultipleBreak`, and the break is reported. -/
theorem brokenReadIsReprobed : Obligations.BrokenReadIsReprobed := by
  unfold Obligations.BrokenReadIsReprobed
  intro cls cmd s rx a b sa sb rest n exp hs hl hframe ha hb hclass hans hfault
  have hres : fullResult (readOp cls cmd) s.latchCounters.ctl.expSnap s.latchCounters rx = (.chainBreakError, []) :=
    attemptResult_read_fault rfl hframe nofun
  have htx : (fullTx (readOp cls cmd) s.latchCounters).length = 4 + 8 * n := buildReadTx_length s.cfg cmd n
  have hit := iteration_complete_answered (s := s.latchCounters) hs hans (hl.trans htx.symm)
  rw [hres] at hit
  obtain ⟨t, hprobe, hprobed, hchain⟩ := reprobe_scripted (rest := rest)
    (s := fullExchanged (readOp cls cmd) s.latchCounters (.bytes rx) ((sa ++ sb).map Answer.bytes ++ rest)) ha hb rfl
  have hclean : probeFault s.cfg s.chain.ctr a b sa sb = .success := hfault
  have hcommit : t.chain = s.chain.commit .multipleBreak a b := by
    rw [hchain]
    exact congrArg (fun cs => s.chain.commit cs a b) hclass
  have hprobe' := hprobe.trans ((congrArg (reprobeOutcome · t) hclean).trans
    (reprobeOutcome_broken (by rw [hcommit]; rfl)))
  obtain ⟨htrace, hanswers, -⟩ :=
    ((fullExchanged_reached _ _ _ _).trans hprobed).respond (Response.ofStatus .chainBreakError [])
  obtain ⟨u, evs, r, hexec, hanswered⟩ := exec_answered (.read cls cmd) s
  obtain rfl : u = serve (readOp cls cmd) s := by simpa [hexec] using exec_read cls cmd s
  rw [serve_of_done (hit.trans hprobe')] at hexec hanswered
  obtain ⟨rfl, rfl⟩ := hanswered.eq_of_trace htrace
  refine ⟨_, _, hexec, hanswered, ?_, ?_, hanswers⟩
  · rw [xferCount_append, exchangeEvents_count, probeEvents_count, Nat.add_assoc]
  · rw [respond_chain, hcommit, ChainInfo.commit, if_pos (by rw [hs]; nofun)]

/-! ## A healed chain (spec R257, R263, R264) -/

/-- The first iteration asks for a retry, and the second ends the request. -/
theorem serve_of_retry {op : Operation} {s t u : State} {st : TxStatus} {rd : Bytes}
    (hfirst : iteration op s.latchCounters = (.retry, t))
    (hsecond : iteration op (t.setIter .second) = (.done st rd, u)) :
    serve op s = u.respond (Response.ofStatus st rd) := by
  unfold serve operate
  rw [hfirst]
  simp only [hsecond]
  rfl

/-- An attempt in `MultipleBreak` that passes is re-probed, and where the probe finds another chain status and no
counter fault the first iteration asks for a retry (spec R261, R264). -/
theorem iteration_healed {op : Operation} {s : State} {rA rB : Bytes} {a b : Nat} {sa sb : List Bytes}
    {rest : List Answer} (hs : s.chain.status = .multipleBreak) (hiter : s.ctl.iter = .first)
    (hans : s.answers = dualAnswers s.chain .A rA ++ (dualAnswers s.chain .B rB ++
      ((sa ++ sb).map Answer.bytes ++ rest)))
    (hA : 0 < s.chain.availA → rA.length = (attemptTx s.cfg op .A s.chain.availA).length)
    (hB : 0 < s.chain.availB → rB.length = (attemptTx s.cfg op .B s.chain.availB).length)
    (hpassA : PortPasses op s s.ctl.expSnap .A rA) (hpassB : PortPasses op s s.ctl.expSnap .B rB)
    (ha : ScanScript s.cfg a sa) (hb : ScanScript s.cfg b sb)
    (hclean : probeFault s.cfg s.chain.ctr a b sa sb = .success)
    (hclass : classify a b s.cfg.deviceCount ≠ .multipleBreak) :
    ∃ u, iteration op s = (.retry, u) ∧
      Reached s u (dualEvents s.cfg s.chain op .A rA ++ dualEvents s.cfg s.chain op .B rB ++
        probeEvents s.cfg sa sb) rest ∧
      u.chain = s.chain.commit (classify a b s.cfg.deviceCount) a b := by
  obtain ⟨t, hit, hreached, hchain⟩ := iteration_dual_answered (by rw [hs]; nofun) hans hA hB
  rw [dualResult_passed hpassA, dualResult_passed hpassB, dualEvaluate_multiple (by rw [hchain, hs])] at hit
  have hcfg : t.cfg = s.cfg := hreached.cfg
  obtain ⟨u, hprobe, hprobed, hcommit⟩ := reprobe_scripted (s := t.enter .evaluate) (by rwa [enter_cfg, hcfg])
    (by rwa [enter_cfg, hcfg]) hreached.answers
  rw [enter_cfg, enter_chain, hcfg, hchain] at hprobe hcommit
  rw [enter_cfg, hcfg] at hprobed
  have hall := (hreached.write (u := t.enter .evaluate) rfl rfl rfl rfl (SameOperands.ofPhase rfl)).trans hprobed
  obtain ⟨hsameIter, -⟩ := hall.operands
  have hfirst : u.ctl.iter = .first := hsameIter.trans hiter
  rw [hclean, reprobeOutcome_retry hfirst (by rwa [hcommit])] at hprobe
  exact ⟨u, hit.trans hprobe, hall, hcommit⟩

/-- A COMMAND over the whole chain that is answered. -/
theorem iteration_complete_command {cls : DevClass} {cmd : Word} {s : State} {rx : Bytes} {rest : List Answer}
    (hs : s.chain.status = .complete) (ha : s.answers = .bytes rx :: rest) (hl : rx.length = 4) :
    iteration (commandOp cls cmd) s =
      (.done .success [], (fullExchanged (commandOp cls cmd) s (.bytes rx) rest).incCtr cls) :=
  iteration_complete_answered hs ha hl

/-- A script of a port that reaches the whole chain has a frame per count. -/
theorem ScanScript.length_full {c : Params} {script : List Bytes} (h : ScanScript c c.deviceCount script) :
    script.length = c.deviceCount := by
  obtain ⟨-, hlen, -⟩ := h
  simpa using hlen

theorem dualAnswers_reaching {info : ChainInfo} {P : Port} (h : 0 < info.avail P) (rx : Bytes) :
    dualAnswers info P rx = [.bytes rx] := if_pos h

theorem dualEvents_reaching {info : ChainInfo} {P : Port} (h : 0 < info.avail P) (c : Params) (op : Operation)
    (rx : Bytes) :
    dualEvents c info op P rx = exchangeEvents P (attemptTx c op P (info.avail P)) (.bytes rx) := if_pos h

/-- Settles O53: the attempt in `MultipleBreak` is re-probed, the probe finds `Complete`, and the retry succeeds. -/
theorem healedCommandIsRetriedOnce : Obligations.HealedCommandIsRetriedOnce := by
  unfold Obligations.HealedCommandIsRetriedOnce
  intro cls cmd s rA rB rx sa sb rest n exp frame hs hA hB hlA hlB hlx ha hb hans hfault
  have hanswers : s.answers = dualAnswers s.chain .A rA ++ (dualAnswers s.chain .B rB ++
      ((sa ++ sb).map Answer.bytes ++ .bytes rx :: rest)) := by
    rw [hans, dualAnswers_reaching (P := .A) hA, dualAnswers_reaching (P := .B) hB]
    rfl
  have hclass : classify n n n = .complete := classify_complete.2 ⟨rfl, rfl⟩
  obtain ⟨u, hfirst, hreached, hchain⟩ := iteration_healed (op := commandOp cls cmd) (s := s.latchCounters) hs rfl
    hanswers (fun _ => hlA) (fun _ => hlB) nofun nofun ha hb hfault (by rw [latchCounters_cfg, hclass]; nofun)
  have hhealed : u.chain = { s.chain with status := .complete, availA := n, availB := n, tally := 0 } := by
    rw [hchain, latchCounters_cfg, hclass, ChainInfo.commit, if_pos (by rw [latchCounters_chain, hs]; nofun)]
    rfl
  have hsecond := iteration_complete_command (cls := cls) (cmd := cmd) (s := u.setIter .second)
    (by rw [setIter_chain, hhealed]) hreached.answers hlx
  have hcfg : u.cfg = s.cfg := hreached.cfg
  have htx : fullTx (commandOp cls cmd) (u.setIter .second) = frame := congrArg (buildCommandFrame · cmd) hcfg
  have hretried := fullExchanged_reached (commandOp cls cmd) (u.setIter .second) (.bytes rx) rest
  rw [htx, setIter_chain, hhealed] at hretried
  rw [exec_command, serve_of_retry hfirst hsecond]
  refine ⟨_, probeEvents s.cfg sa sb, rfl, ?_, ?_, ?_, rfl⟩
  · rw [respond_trace, incCtr_trace, hretried.trace, setIter_trace, hreached.trace, latchCounters_chain,
      dualEvents_reaching (P := .A) hA, dualEvents_reaching (P := .B) hB]
    simp only [List.append_assoc]
    rfl
  · rw [probeEvents_count, ha.length_full, hb.length_full, Nat.two_mul]
  · have hcounted : ((fullExchanged (commandOp cls cmd) (u.setIter .second) (.bytes rx) rest).incCtr cls).chain =
        { u.chain with ctr := incCounters cls u.chain.ctr } := rfl
    rw [respond_chain, hcounted, incCounters_eq, hhealed]

end Sys2Proof.Machine

/-! PROOFS. COMMAND and WRITE do not inspect the bytes of an answer (44_transactor.md R259): an attempt depends on its
answer only through whether it is admitted (`attempt_uninspected`), so two blocks that are `Alike` stay so, attempt by
attempt, and end in the same verdict. -/

namespace Sys2Proof.Machine

/-! ## Answers that differ in their bytes -/

/-- The two answers differ at most in their bytes. -/
def SameLength (a b : Answer) : Prop :=
  a = b ∨ ∃ x y : Bytes, a = .bytes x ∧ b = .bytes y ∧ x.length = y.length

/-- An answer is admitted or not by its length. -/
theorem SameLength.admitted_eq {a b : Answer} (h : SameLength a b) (tx : Bytes) :
    (replyOf tx a).isSome = (replyOf tx b).isSome := by
  rcases h with rfl | ⟨x, y, rfl, rfl, hl⟩
  · rfl
  · simp only [replyOf, hl]
    split <;> rfl

/-- Two blocks of one configuration and the same registers, with at least `m` answers queued, which differ at most in
their bytes. -/
structure Alike (m : Nat) (s u : State) : Prop where
  cfg : s.cfg = u.cfg
  chain : s.chain = u.chain
  answers : List.Forall₂ SameLength s.answers u.answers
  enough : m ≤ s.answers.length

theorem Alike.enter {m : Nat} {s u : State} (h : Alike m s u) (ph : Phase) : Alike m (s.enter ph) (u.enter ph) :=
  ⟨h.cfg, h.chain, h.answers, h.enough⟩

theorem Alike.mono {m k : Nat} {s u : State} (h : Alike m s u) (hk : k ≤ m) : Alike k s u :=
  ⟨h.cfg, h.chain, h.answers, hk.trans h.enough⟩

/-! ## Attempts (spec R259) -/

section Uninspected

variable {op : Operation} {P : Port} {k m : Nat} {s u : State}

/-- An attempt of a COMMAND or WRITE depends on the answer only through its admission. -/
theorem attempt_uninspected {a : Answer} {rest : List Answer} (hop : op.kind ≠ .read) (ha : s.answers = a :: rest) :
    attempt op P k s =
      ((if (replyOf (attemptTx s.cfg op P k) a).isSome then .success else .spiError, []),
        s.exchanged P (attemptTx s.cfg op P k) a rest) := by
  unfold attempt
  rw [transceive_eq_exchanged ha]
  cases replyOf (attemptTx s.cfg op P k) a with
  | none => rfl
  | some rx => exact congrArg (·, _) (attemptResult_uninspected hop _ _ _ _ _)

/-- Two alike blocks make the same of an attempt, and are alike after it. -/
theorem attempt_alike (hop : op.kind ≠ .read) (h : Alike (m + 1) s u) :
    ∃ r s' u', (r = .success ∨ r = .spiError) ∧ attempt op P k s = ((r, []), s') ∧
      attempt op P k u = ((r, []), u') ∧ s'.chain = s.chain ∧ s'.cfg = s.cfg ∧
      Alike m s' u' := by
  obtain ⟨hcfg, hchain, hanswers, henough⟩ := h
  cases hs : s.answers with
  | nil => simp [hs] at henough
  | cons a as =>
    rw [hs] at hanswers henough
    obtain ⟨b, bs, hab, hrest, hu⟩ := List.forall₂_cons_left_iff.1 hanswers
    rw [attempt_uninspected hop hs, attempt_uninspected hop hu, ← hcfg, hab.admitted_eq]
    exact ⟨_, _, _, ite_eq_or_eq _ _ _, rfl, rfl, rfl, rfl, hcfg, hchain, hrest, Nat.le_of_succ_le_succ henough⟩

theorem dualAttempt_alike (hop : op.kind ≠ .read) (h : Alike (m + 1) s u) :
    ∃ r s' u', (r = .success ∨ r = .spiError) ∧ dualAttempt op P s = ((r, []), s') ∧
      dualAttempt op P u = ((r, []), u') ∧ s'.chain = s.chain ∧ s'.cfg = s.cfg ∧
      Alike m s' u' := by
  unfold dualAttempt
  rw [← h.chain]
  split
  · exact attempt_alike hop h
  · exact ⟨_, _, _, .inl rfl, rfl, rfl, rfl, rfl, h.mono (Nat.le_succ m)⟩

end Uninspected

/-! ## Branches (spec R258, R260 to R262) -/

/-- Both branches end the request, in the same way and with the same registers. -/
def EndAlike (x y : Verdict × State) : Prop :=
  ∃ st rd, x.1 = .done st rd ∧ y.1 = .done st rd ∧ x.2.chain = y.2.chain

section Branches

variable {op : Operation} {s u : State}

theorem completeOutcome_alike {r : TxStatus} (hr : r = .success ∨ r = .spiError) (h : Alike 0 s u) :
    EndAlike (completeOutcome op r [] s) (completeOutcome op r [] u) := by
  rcases hr with rfl | rfl
  · refine ⟨_, _, rfl, by simp only [completeOutcome, h.cfg], ?_⟩
    simp only [completeOutcome]
    split <;> simp only [State.incCtr, State.setCtr, State.setCurrentPort, h.chain]
  · exact ⟨_, _, rfl, rfl, h.chain⟩

theorem completeBranch_alike (hop : op.kind ≠ .read) (h : Alike 1 s u) :
    EndAlike (completeBranch op s) (completeBranch op u) := by
  obtain ⟨r, s', u', hr, hs, hu, -, -, halike⟩ :=
    attempt_alike (P := s.chain.currentPort) (k := s.cfg.deviceCount) hop (h.enter .attemptCurrent)
  unfold completeBranch
  rw [← h.chain, ← h.cfg, hs, hu]
  exact completeOutcome_alike hr halike

theorem dualAborted_alike {m : Nat} (h : Alike m s u) : EndAlike (dualAborted s) (dualAborted u) :=
  ⟨_, _, rfl, rfl, by simp only [dualAborted, State.setTally, h.chain]⟩

/-- A success in `SingleBreak` below the tally limit has no exchange. -/
theorem singleSuccess_alike {m : Nat} (ht : s.chain.tally + 1 ≠ s.cfg.dualPortLimit) (h : Alike m s u) :
    EndAlike (singleSuccess op [] [] s) (singleSuccess op [] [] u) := by
  rw [singleSuccess_counted ht, singleSuccess_counted (by rwa [← h.chain, ← h.cfg])]
  refine ⟨_, _, rfl, ?_, ?_⟩
  · simp only [dualData, h.chain, h.cfg]
  · simp only [State.incCtr, State.setCtr, State.setTally, h.chain]

theorem dualBranch_alike (hop : op.kind ≠ .read) (hsingle : s.chain.status = .singleBreak)
    (ht : s.chain.tally + 1 ≠ s.cfg.dualPortLimit) (h : Alike 2 s u) :
    EndAlike (dualBranch op s) (dualBranch op u) := by
  obtain ⟨rA, s1, u1, hrA, hs1, hu1, hchain1, hcfg1, h1⟩ := dualAttempt_alike (P := .A) hop (h.enter .attemptA)
  obtain ⟨rB, s2, u2, hrB, hs2, hu2, hchain2, hcfg2, h2⟩ := dualAttempt_alike (P := .B) hop (h1.enter .attemptB)
  have hchain : s2.chain = s.chain := hchain2.trans hchain1
  have hcfg : s2.cfg = s.cfg := hcfg2.trans hcfg1
  unfold dualBranch
  rw [hs1, hu1]
  rcases hrA with rfl | rfl
  · simp only [reduceCtorEq, if_false, hs2, hu2]
    rcases hrB with rfl | rfl
    · simp only [reduceCtorEq, if_false]
      rw [dualEvaluate_single (by rw [hchain, hsingle]), dualEvaluate_single (by rw [← h2.chain, hchain, hsingle])]
      exact singleSuccess_alike (by rwa [enter_chain, enter_cfg, hchain, hcfg]) (h2.enter .evaluate)
    · exact dualAborted_alike h2
  · exact dualAborted_alike h1

/-- One iteration on a chain that is complete, or in `SingleBreak` below the tally limit. -/
theorem iteration_alike (hop : op.kind ≠ .read) (hstatus : s.chain.status ≠ .multipleBreak)
    (ht : s.chain.tally + 1 ≠ s.cfg.dualPortLimit) (h : Alike 2 s u) :
    EndAlike (iteration op s) (iteration op u) := by
  unfold iteration
  rw [← h.chain]
  split
  · exact completeBranch_alike hop (h.mono (by decide))
  · refine dualBranch_alike hop ?_ ht h
    cases hs : s.chain.status <;> simp_all

end Branches

/-- Two alike blocks serve a COMMAND or WRITE alike. -/
theorem serve_alike {op : Operation} {s u : State} (hop : op.kind ≠ .read) (hstatus : s.chain.status ≠ .multipleBreak)
    (ht : s.chain.tally + 1 ≠ s.cfg.dualPortLimit) (h : Alike 2 s u) :
    (serve op s).chain = (serve op u).chain ∧ (serve op s).trace.getLast? = (serve op u).trace.getLast? := by
  have hlatched : Alike 2 s.latchCounters u.latchCounters := ⟨h.cfg, h.chain, h.answers, h.enough⟩
  obtain ⟨st, rd, hs, hu, hchain⟩ := iteration_alike (s := s.latchCounters) hop hstatus ht hlatched
  rw [serve_of_done (Prod.ext hs rfl), serve_of_done (Prod.ext hu rfl)]
  exact ⟨hchain, by simp⟩

/-- Settles O60: the two blocks are alike, and well-formedness does not depend on the answers. -/
theorem commandAndWriteIgnoreAnswerBytes : Obligations.CommandAndWriteIgnoreAnswerBytes := by
  unfold Obligations.CommandAndWriteIgnoreAnswerBytes
  rintro i s as bs t u ⟨cls, cmd, data, hi⟩ hstatus ht henough hanswers hs hu
  obtain ⟨op, hop, hkind⟩ : ∃ op, operationOf i = some op ∧ op.kind ≠ .read := by
    rcases hi with rfl | rfl <;> exact ⟨_, rfl, nofun⟩
  have halike : Alike 2 { s with answers := as } { s with answers := bs } := ⟨rfl, rfl, hanswers, henough⟩
  by_cases hwf : i.wf s.cfg = true
  · have hserve := fun l => exec_operation_of_wellFormed (s := { s with answers := l }) hop hwf
    obtain rfl := Host.Outcome.next.inj (hs.symm.trans (hserve as))
    obtain rfl := Host.Outcome.next.inj (hu.symm.trans (hserve bs))
    exact serve_alike hkind hstatus ht halike
  · have hrefuse := fun l => exec_of_illFormed (i := i) (s := { s with answers := l }) (by simpa using hwf)
    obtain rfl := Host.Outcome.next.inj (hs.symm.trans (hrefuse as))
    obtain rfl := Host.Outcome.next.inj (hu.symm.trans (hrefuse bs))
    exact ⟨rfl, by simp⟩

end Sys2Proof.Machine

/-! PROOFS. Responses (60_exceptions.md R309, R312; 30_encoding.md R92, R103 to R105): every accepted request, refused
ones included, is a run and one response (`step_responds`), and every response is built in one of the ways of
`RespondsWith`. -/

namespace Sys2Proof.Machine

/-! ## Every request is answered (spec R312) -/

/-- An idle block that is offered a request accepts it and makes a run that ends in a response. -/
theorem step_responds {s : State} {r : Request} {rest : List Request} (hbusy : s.ctl.busy = false)
    (hhost : s.host = r :: rest) :
    ∃ u evs resp, step s = .next (u.respond resp) ∧ Ran (s.accept r rest) u evs := by
  cases hdec : decode r with
  | error e =>
    exact ⟨s.accept r rest, [], _, step_of_rejected hbusy hhost (by simp [hdec]), Ran.refl _⟩
  | ok i =>
    obtain ⟨u, evs, resp, hexec, hran, -⟩ := exec_served i (s.accept r rest)
    exact ⟨u, evs, resp, (stepRunsTheDecodedInstruction s r rest i hbusy hhost hdec).trans hexec, hran⟩

/-- Settles O9: the run uses up its answers and keeps the rest of what was accepted, and the response leaves the block
idle. -/
theorem everyRequestIsAnswered : Obligations.EveryRequestIsAnswered := by
  unfold Obligations.EveryRequestIsAnswered
  intro s r rest hbusy hhost
  obtain ⟨u, evs, resp, hstep, hran⟩ := step_responds hbusy hhost
  have htrace : u.trace = s.trace ++ evs := hran.trace
  refine ⟨u.respond resp, evs, resp, hstep, ⟨?_, hran.quiet⟩, rfl, rfl, hran.req, hran.cfg, hran.host, hran.answers⟩
  rw [respond_trace, htrace]

/-! ## What a response carries (spec R92) -/

/-- Every way an instruction builds its response. -/
inductive RespondsWith : Instr → Response → Prop where
  /-- An ill-formed instruction is refused (spec R99). -/
  | illegal (i : Instr) : RespondsWith i (Response.ofCode illegalCode)
  /-- A transaction status, with data where it is `Success` (spec R309). -/
  | ofStatus (i : Instr) (st : TxStatus) (data : Bytes) : RespondsWith i (Response.ofStatus st data)
  /-- A value, with `Success`. -/
  | ofValue (i : Instr) (value : BitVec 32) : RespondsWith i (Response.ofValue value)
  /-- STATUS reports the chain status (spec R271). -/
  | chainStatus (cs : ChainStatus) :
      RespondsWith .status { Response.ofCode TxStatus.success.code with chainStatus := cs.code }
  /-- A PROBE that was not aborted reports its result (spec R231). -/
  | probed (cs : ChainStatus) (avA avB : Nat) (pf : TxStatus) : RespondsWith .probe (probeResponse cs avA avB pf)

theorem probeOutcome_respondsWith (p : ProbeResult × State) :
    ∃ (u : State) (resp : Response), probeOutcome p = u.respond resp ∧ RespondsWith .probe resp := by
  obtain ⟨result, u⟩ := p
  cases result with
  | spiError => exact ⟨u, _, rfl, .ofStatus _ .spiError []⟩
  | found cs avA avB pf => exact ⟨u.commit cs avA avB, _, rfl, .probed cs avA avB pf⟩

/-- Every instruction ends in a response built in one of the ways of `RespondsWith`. -/
theorem exec_respondsWith (i : Instr) (s : State) :
    ∃ (u : State) (resp : Response), exec i s = .next (u.respond resp) ∧ RespondsWith i resp := by
  by_cases hwf : i.wf s.cfg = true
  case neg => exact ⟨s, _, exec_of_illFormed (by simpa using hwf), .illegal i⟩
  case pos =>
    cases i with
    | status => exact ⟨s, _, rfl, .chainStatus s.chain.status⟩
    | command cls cmd | read cls cmd => exact ⟨_, _, rfl, .ofStatus _ _ _⟩
    | write cls cmd data => exact ⟨_, _, (exec_write cls cmd data s).trans (if_pos hwf), .ofStatus _ _ _⟩
    | wake port | ready port => exact ⟨_, _, rfl, .ofStatus _ _ _⟩
    | init => exact ⟨_, _, rfl, .ofStatus _ _ _⟩
    | probe =>
      obtain ⟨u, resp, heq, hresp⟩ := probeOutcome_respondsWith (runProbe (s.enter .reprobe))
      exact ⟨u, resp, (exec_probe s).trans (congrArg _ heq), hresp⟩
    | crc15 bytes => exact ⟨_, _, rfl, .ofValue _ _⟩
    | crc10 bytes counter => exact ⟨_, _, (exec_crc10 bytes counter s).trans (if_pos hwf), .ofValue _ _⟩
    | buildcmd cmd => exact ⟨_, _, rfl, .ofStatus _ _ _⟩
    | buildwr port cmd count data =>
      exact ⟨_, _, (exec_buildwr port cmd count data s).trans (if_pos hwf), .ofStatus _ _ _⟩
    | parserd port count counter bytes =>
      exact ⟨_, _, (exec_parserd port count counter bytes s).trans (if_pos hwf), .ofStatus _ _ _⟩
    | offset port index count => exact ⟨_, _, (exec_offset port index count s).trans (if_pos hwf), .ofValue _ _⟩
    | ctrreset cls => exact ⟨_, _, exec_ctrreset cls s, .ofStatus _ _ _⟩

/-- An answered instruction's response is one of those it can build. -/
theorem respondsWith_of_answered {i : Instr} {s t : State} {evs : List Event} {r : Response}
    (hexec : exec i s = .next t) (ha : Answered s t evs r) : RespondsWith i r := by
  obtain ⟨u, resp, heq, hresp⟩ := exec_respondsWith i s
  obtain rfl : t = u.respond resp := by simpa [hexec] using heq
  rwa [ha.response_eq]

/-- The status codes 5 and 6 name no transaction status (spec R103). -/
theorem code_ne_reserved (st : TxStatus) : st.code ≠ 5#3 ∧ st.code ≠ 6#3 := by cases st <;> decide

/-- The code 3 names no chain status (spec R105). -/
theorem chainStatusCode_ne_three (cs : ChainStatus) : cs.code ≠ 3#2 := by cases cs <;> decide

theorem ofStatus_data_eq_nil {st : TxStatus} (data : Bytes) (h : st.code ≠ 0#3) :
    (Response.ofStatus st data).data = [] :=
  if_neg fun hst => h (code_eq_success.2 hst)

namespace RespondsWith

variable {i : Instr} {r : Response}

/-- Data and a value come only with `Success` (spec R309). -/
theorem empty_of_failure (h : RespondsWith i r) (hr : r.status ≠ 0#3) : r.data = [] ∧ r.value = 0 := by
  cases h with
  | ofStatus _ st data => exact ⟨ofStatus_data_eq_nil data hr, rfl⟩
  | ofValue _ value => exact absurd rfl hr
  | illegal | chainStatus | probed => exact ⟨rfl, rfl⟩

/-- Only STATUS and PROBE report the chain (spec R92). -/
theorem chain_fields_eq_zero (h : RespondsWith i r) (hstatus : i ≠ .status) (hprobe : i ≠ .probe) :
    r.chainStatus = 0 ∧ r.availA = 0 ∧ r.availB = 0 := by
  cases h with
  | illegal | ofStatus | ofValue => exact ⟨rfl, rfl, rfl⟩
  | chainStatus => exact absurd rfl hstatus
  | probed => exact absurd rfl hprobe

theorem status_ne_reserved (h : RespondsWith i r) : r.status ≠ 5#3 ∧ r.status ≠ 6#3 := by
  cases h with
  | illegal => decide
  | ofStatus _ st data => exact code_ne_reserved st
  | ofValue | chainStatus => exact code_ne_reserved .success
  | probed cs avA avB pf => exact code_ne_reserved pf

theorem chainStatus_ne_three (h : RespondsWith i r) : r.chainStatus ≠ 3#2 := by
  cases h with
  | illegal | ofStatus | ofValue => exact chainStatusCode_ne_three .complete
  | chainStatus cs => exact chainStatusCode_ne_three cs
  | probed cs avA avB pf => exact chainStatusCode_ne_three cs

end RespondsWith

/-- Settles O59: each clause holds of every response an instruction can build. -/
theorem responseFields : Obligations.ResponseFields := by
  unfold Obligations.ResponseFields
  intro i s t evs r hexec ha
  have hresp := respondsWith_of_answered hexec ha
  obtain ⟨hfive, hsix⟩ := hresp.status_ne_reserved
  exact ⟨hresp.empty_of_failure, hresp.chain_fields_eq_zero, hfive, hsix, hresp.chainStatus_ne_three⟩

end Sys2Proof.Machine

/-! PROOFS. The idle block (70_reset_and_hazards.md R341): nothing happens until the host offers a request. -/

namespace Sys2Proof.Machine

theorem nextRequest_eq_none {s : State} (hhost : s.host = []) : s.nextRequest = none := by
  rw [State.nextRequest, hhost]

/-- Settles O8: no request is in flight, and the queue gives none to accept. -/
theorem idleBlockWaits : Obligations.IdleBlockWaits := by
  unfold Obligations.IdleBlockWaits
  intro s hbusy hhost
  simp only [step, hbusy, nextRequest_eq_none hhost, Bool.false_eq_true, if_false]

end Sys2Proof.Machine
